-- ==== Sys2Proof/Machine/Errors.lean ====
section
/-! DEFINITION. The errors of 60_exceptions R240, as closed lists of names, and the 8-bit code of each. -/

namespace Sys2Proof.Machine

/-- A configuration error: construction returns it and no engine exists (60_exceptions R247). -/
inductive ConfigError where
  /-- `0x01`: `WIDTH = 0` (60_exceptions R241). -/
  | widthZero
  /-- `0x02`: `WIDTH > CAP` (60_exceptions R242). -/
  | widthOverCap
  /-- `0x03`: `POLY >= 2^WIDTH` (60_exceptions R243). -/
  | polyRange
  /-- `0x04`: `INIT >= 2^WIDTH` (60_exceptions R244). -/
  | initRange
  /-- `0x05`: `XOROUT >= 2^WIDTH` (60_exceptions R245). -/
  | xoroutRange
  /-- `0x06`: `SELFTEST` and `CHECK != EXPECTED_CHECK` (60_exceptions R246). -/
  | selftestMismatch
deriving DecidableEq, Repr

/-- A runtime fault code: IllegalCommand and ContractViolation (60_exceptions R240). -/
inductive FaultCode where
  /-- `0x10`, ILLEGAL_WORD (60_exceptions R249). -/
  | illegalWord
  /-- `0x11`, NO_SELFTEST (60_exceptions R250). -/
  | noSelftest
  /-- `0x20`, SET_RANGE (60_exceptions R251). -/
  | setRange
  /-- `0x21`, RANGE_ORDER (60_exceptions R252). -/
  | rangeOrder
  /-- `0x22`, RANGE_BOUNDS (60_exceptions R253). -/
  | rangeBounds
deriving DecidableEq, Repr

/-- The engine's fault record `Fault(code, info)` (10_state R40). -/
structure FaultRecord where
  code : FaultCode
  /-- The natural the rule that raises the fault defines. -/
  info : Nat
deriving DecidableEq, Repr

/-- The code of a configuration error (60_exceptions R241-R246). -/
def ConfigError.number : ConfigError → BitVec 8
  | .widthZero => 0x01
  | .widthOverCap => 0x02
  | .polyRange => 0x03
  | .initRange => 0x04
  | .xoroutRange => 0x05
  | .selftestMismatch => 0x06

/-- The code of a runtime fault (60_exceptions R249-R253). -/
def FaultCode.number : FaultCode → BitVec 8
  | .illegalWord => 0x10
  | .noSelftest => 0x11
  | .setRange => 0x20
  | .rangeOrder => 0x21
  | .rangeBounds => 0x22

/-- The two classes of runtime fault (60_exceptions R240): IllegalCommand, else ContractViolation. -/
def FaultCode.isIllegalCommand : FaultCode → Bool
  | .illegalWord => true
  | .noSelftest => true
  | .setRange => false
  | .rangeOrder => false
  | .rangeBounds => false

end Sys2Proof.Machine
end

