-- ==== Sys2Proof/Config.lean ====
section
/-! DEFINITION. What one engine is built from (00_scope R8), the configuration `State.reset` takes (log entry 1), and the
model's one free value (log entry 4). -/

namespace Sys2Proof

/-- The configuration record of 00_scope R8, immutable once the engine is constructed (R14). Nothing here says that a
record is legal: that is `Machine.validate` (60_exceptions R248). -/
structure Config where
  /-- `CAP`, the bit capacity of the backing integer representation: an OPEN parameter (00_scope R9). -/
  cap : Nat
  /-- `WIDTH`, the bit width `W` of the register (00_scope R10). -/
  width : Nat
  /-- `POLY`, the generator without its `x^W` term (00_scope R11). -/
  poly : Nat
  /-- `INIT`, the initial value in non-reflected form (00_scope R8). -/
  init : Nat
  /-- `XOROUT`, the final XOR mask (00_scope R8). -/
  xorout : Nat
  /-- `REFIN` (00_scope R12). -/
  refin : Bool
  /-- `REFOUT` (00_scope R12). -/
  refout : Bool
  /-- `SELFTEST` (00_scope R13). -/
  selftest : Bool
  /-- `EXPECTED_CHECK`, any natural (00_scope R13, 90_conflicts C5). -/
  expectedCheck : Nat
deriving DecidableEq, Repr

/-- DESIGN CHOICE (log entry 1; unsafe for a claim that leans on it): the configuration of the engine `State.reset` is.
The spec fixes none. It is the configuration of program P1 (95_test_vectors L3): CRC-32/ISO-HDLC, `CAP = 32`, self-test on. -/
def Config.atReset : Config where
  cap := 32
  width := 32
  poly := 0x04C11DB7
  init := 0xFFFFFFFF
  xorout := 0xFFFFFFFF
  refin := true
  refout := true
  selftest := true
  expectedCheck := 0xCBF43926

/-- FREE VALUE (log entry 4; safe): what a read of the table at an index of 256 or more would give. 20_memory R61 says such
an index never arises, so the spec gives no value. It has no body: nothing can be proved of it. -/
opaque Config.beyondTable : Nat → Nat

end Sys2Proof
end

