-- ==== Sys2Proof/Machine/Flags.lean ====
section
/-! DEFINITION. The engine has no flags or condition codes (10_state R43): what there is are the boolean configuration
constants, how they read as numbers (00_scope R15), and the one condition computed from them (42_register_update R176). -/

namespace Sys2Proof.Machine

/-- A boolean read as a number: `false = 0`, `true = 1` (00_scope R15; 43_engine R200, R201). -/
def flagValue (b : Bool) : Nat :=
  if b then 1 else 0

/-- `do_reflect_output = reflect_input XOR reflect_output` (42_register_update R176). -/
def reflectsOutput (cfg : Config) : Bool :=
  xor cfg.refin cfg.refout

end Sys2Proof.Machine
end

