-- ==== Sys2Proof/Machine/Bits.lean ====
section
/-! DEFINITION. The numeric primitives of 00_scope R15-R17 and R19 that the datapath is written in, and the constants
derived from the width (10_state R31, R32). -/

namespace Sys2Proof.Machine

/-- `mask_W(v)`: `v & (2^W - 1)`, that is `v mod 2^W` (00_scope R17). -/
def maskTo (w v : Nat) : Nat :=
  v % 2 ^ w

/-- `MASK = 2^W - 1` (10_state R31). -/
def allOnes (w : Nat) : Nat :=
  2 ^ w - 1

/-- `MSB = 2^(W-1)`, the source's `msb_mask = 1 << (width - 1)` (10_state R32). -/
def topBit (w : Nat) : Nat :=
  1 <<< (w - 1)

/-- `TableRead(i) = TABLE[i]` for `0 <= i <= 255` (00_scope R19, 20_memory R61). An index of 256 or more never arises; its
value is left free (log entry 4). -/
def tableRead (table : List Nat) (i : Nat) : Nat :=
  (table[i]?).getD (Config.beyondTable i)

end Sys2Proof.Machine
end

