-- ==== Sys2Proof/Machine/BitReflector.lean ====
section
/-! DEFINITION. crc_bit_reflector (40_bit_reflector R130-R133): bit reversal of the low bits of a byte and of a whole
register value. Pure and total; no command reaches it (30_encoding R106). -/

namespace Sys2Proof.Machine

/-- The low `len` bits of `v` in reverse order: bit 0 becomes bit `len - 1`, and the bits of `v` at or above `len` are
ignored. The loop of R131 and R132, `r[len-1-k] = v[k]`, taken from `k = 0` up. -/
def reverseLow : Nat → Nat → Nat
  | 0, _ => 0
  | len + 1, v => ((v % 2) <<< len) ||| reverseLow len (v / 2)

/-- REFLECT_BYTE: `reflect_byte(b, len)` (40_bit_reflector R131). -/
def reflectByte (b len : Nat) : Nat :=
  reverseLow len b

/-- REFLECT_REGISTER: `reflect_register(v)` at width `w`, the exact `W`-bit reversal (40_bit_reflector R132, 90_conflicts C4). -/
def reflectRegister (w v : Nat) : Nat :=
  reverseLow w v

/-- The byte-wise composition of 40_bit_reflector R133: full byte `k` of the input lands reflected at bit offset
`W - 8 - 8k`, and the partial byte, the `W mod 8` most significant bits, lands reflected at the bottom. The rule says that
it equals `reflectRegister`; the machine uses the latter. -/
def reflectRegisterBytewise (w v : Nat) : Nat :=
  let q := w / 8
  let r := w % 8
  let full := (List.range q).foldl
    (fun acc k => acc ^^^ (reflectByte (v / 2 ^ (8 * k) % 2 ^ 8) 8 <<< (w - 8 - 8 * k))) 0
  full ^^^ (if r > 0 then reflectByte (v / 2 ^ (8 * q) % 2 ^ r) r else 0)

end Sys2Proof.Machine
end

