-- ==== Sys2Proof/Machine/TableGenerator.lean ====
section
/-! DEFINITION. crc_table_generator (41_table_generator R150-R153): the 256-entry table, built once at construction. -/

namespace Sys2Proof.Machine

/-- One turn of the builder's loop (41_table_generator R151): shift `crc`, XOR the polynomial in when its top bit was set, mask to
`W` bits, then `base[i + j] = crc XOR base[j]` for every `j` below `i`. The entries written so far are the list, so `i`
is its length, and the new entries are appended. -/
def doublingPass (w poly : Nat) (st : Nat × List Nat) : Nat × List Nat :=
  let shifted := if st.1.testBit (w - 1) then (st.1 <<< 1) ^^^ poly else st.1 <<< 1
  let crc := maskTo w shifted
  (crc, st.2 ++ st.2.map (fun e => crc ^^^ e))

/-- The loop of R151, `n` turns of it. -/
def doublingPasses (w poly : Nat) : Nat → Nat × List Nat → Nat × List Nat
  | 0, st => st
  | n + 1, st => doublingPasses w poly n (doublingPass w poly st)

/-- BUILD_BASE (41_table_generator R151): from `base[0] = 0` and `crc = MSB`, eight turns, `i = 1, 2, 4, ..., 128`. -/
def buildBase (w poly : Nat) : List Nat :=
  (doublingPasses w poly 8 (topBit w, [0])).2

/-- BUILD_REFLECTED (41_table_generator R152): `refl[i] = reflect_register(base[reflect_byte(i, 8)])`. -/
def buildReflected (w : Nat) (base : List Nat) : List Nat :=
  (List.range 256).map (fun i => reflectRegister w (tableRead base (reflectByte i 8)))

/-- The engine's table (41_table_generator R153). `REFOUT` does not affect it. -/
def buildTable (cfg : Config) : List Nat :=
  if cfg.refin then buildReflected cfg.width (buildBase cfg.width cfg.poly) else buildBase cfg.width cfg.poly

end Sys2Proof.Machine
end

