-- ==== Sys2Proof/Word.lean ====
section
/-! DEFINITION. The two word types of the command interface (20_memory R67, 30_encoding R102). Every other quantity of
this hardware is a natural number (00_scope R15). -/

namespace Sys2Proof

/-- One byte of a host container: the only width of a host-memory read (20_memory R67, 00_scope R18). -/
abbrev Byte := BitVec 8

/-- A command word `cmd[15:0]`: every command word is 16 bits long (30_encoding R90, R102). -/
abbrev CmdWord := BitVec 16

end Sys2Proof
end

