-- ==== Sys2Proof/Machine/RegisterUpdate.lean ====
section
/-! DEFINITION. crc_register_update (42_register_update R170-R180): the byte-at-a-time update in its three paths, the fold
over a byte list, finalization and its inverse, and the two constants they give: `CI` (10_state R33) and `CHECK`
(43_engine R209). -/

namespace Sys2Proof.Machine

/-- `index = b XOR (c & 0xFF)` (42_register_update R171). -/
def indexReflected (c : Nat) (b : Byte) : Nat :=
  b.toNat ^^^ (c &&& 0xFF)

/-- `index = b XOR (c << (8 - W))` (42_register_update R172). -/
def indexNarrow (w c : Nat) (b : Byte) : Nat :=
  b.toNat ^^^ (c <<< (8 - w))

/-- `index = b XOR (c >> (W - 8))` (42_register_update R173). -/
def indexWide (w c : Nat) (b : Byte) : Nat :=
  b.toNat ^^^ (c >>> (w - 8))

/-- UPDATE_REFLECTED, the update when `REFIN` (42_register_update R171). -/
def updateReflected (w : Nat) (table : List Nat) (c : Nat) (b : Byte) : Nat :=
  maskTo w ((c >>> 8) ^^^ tableRead table (indexReflected c b))

/-- UPDATE_NARROW, the update when not `REFIN` and `W < 8` (42_register_update R172). -/
def updateNarrow (w : Nat) (table : List Nat) (c : Nat) (b : Byte) : Nat :=
  maskTo w ((c <<< 8) ^^^ tableRead table (indexNarrow w c b))

/-- UPDATE_WIDE, the update when not `REFIN` and `W >= 8` (42_register_update R173). -/
def updateWide (w : Nat) (table : List Nat) (c : Nat) (b : Byte) : Nat :=
  maskTo w ((c <<< 8) ^^^ tableRead table (indexWide w c b))

/-- The index an update of this configuration reads the table at (42_register_update R171-R174). -/
def updateIndex (cfg : Config) (c : Nat) (b : Byte) : Nat :=
  if cfg.refin then indexReflected c b
  else if cfg.width < 8 then indexNarrow cfg.width c b
  else indexWide cfg.width c b

/-- UPDATE: one path, fixed by the configuration (42_register_update R174). -/
def update (cfg : Config) (table : List Nat) (c : Nat) (b : Byte) : Nat :=
  if cfg.refin then updateReflected cfg.width table c b
  else if cfg.width < 8 then updateNarrow cfg.width table c b
  else updateWide cfg.width table c b

/-- FOLD: the bytes in order, each exactly once (42_register_update R175, 20_memory R64). -/
def fold (cfg : Config) (table : List Nat) (c : Nat) : List Byte → Nat
  | [] => c
  | b :: s => fold cfg table (update cfg table c b) s

/-- The table indices a fold reads, in order: one per byte (42_register_update R175, 70_reset_and_hazards R282: "a count a
model may expose"). -/
def foldReads (cfg : Config) (table : List Nat) (c : Nat) : List Byte → List Nat
  | [] => []
  | b :: s => updateIndex cfg c b :: foldReads cfg table (update cfg table c b) s

/-- FINALIZE (42_register_update R176): reflect when `REFIN XOR REFOUT`, then XOR with `XOROUT`. -/
def finalize (cfg : Config) (c : Nat) : Nat :=
  (if reflectsOutput cfg then reflectRegister cfg.width c else c) ^^^ cfg.xorout

/-- `unfinalize` (42_register_update R180), which a host uses to resume from a reported checksum (70_reset_and_hazards R277). -/
def unfinalize (cfg : Config) (v : Nat) : Nat :=
  if reflectsOutput cfg then reflectRegister cfg.width (v ^^^ cfg.xorout) else v ^^^ cfg.xorout

/-- `CI`, the corrected initial value (10_state R33). -/
def correctedInitial (cfg : Config) : Nat :=
  if cfg.refin then reflectRegister cfg.width cfg.init else cfg.init

/-- The ASCII codes of `"123456789"` (00_scope R18, 43_engine R209). -/
def checkVector : List Byte :=
  [0x31, 0x32, 0x33, 0x34, 0x35, 0x36, 0x37, 0x38, 0x39]

/-- `CHECK = finalize(fold(CI, "123456789"))` (43_engine R209). -/
def computeCheck (cfg : Config) (table : List Nat) : Nat :=
  finalize cfg (fold cfg table (correctedInitial cfg) checkVector)

end Sys2Proof.Machine
end

