-- ==== Sys2Proof/Syntax.lean ====
section
/-! DEFINITION. The commands of the engine, whole: one constructor of `Instr` per row of spec/opcode_table.json, the operand
forms of 20_memory R71, and the transaction the host sends (30_encoding R90). -/

namespace Sys2Proof

/-- A host container as a command names it (20_memory R62, 30_encoding R104): one the host holds under a number, or the
anonymous container written out in the command as `[<b0>, <b1>, ...]` or as a string. -/
inductive Container where
  | named (n : Nat)
  | anonymous (bytes : List Byte)
deriving DecidableEq, Repr

/-- The four framing descriptors of 20_memory R71, the `STREAM` operand of COMPUTE and CSTATIC (30_encoding R93). -/
inductive Framing where
  /-- `WHOLE(c)` (R73). -/
  | whole (c : Container)
  /-- `OFFSET(c, off)` (R74). -/
  | offset (c : Container) (off : Nat)
  /-- `OFFLEN(c, off, n)` (R75). -/
  | offlen (c : Container) (off n : Nat)
  /-- `RANGE(c, begin, end)` (R72). -/
  | range (c : Container) (start stop : Nat)
deriving DecidableEq, Repr

/-- The commands of 30_encoding R96, each with the operands its rule gives it. -/
inductive Instr where
  /-- RESET (43_engine R191). -/
  | reset
  /-- SET with its `DATA` operand (43_engine R192). -/
  | set (data : Nat)
  /-- COMPUTE with its `STREAM` operand (43_engine R193). -/
  | compute (stream : Framing)
  /-- CSTATIC with its `STREAM` operand (43_engine R194). -/
  | cstatic (stream : Framing)
  /-- RDTAB with its index field, 8 bits wide (43_engine R195, 30_encoding R97). -/
  | rdtab (idx : BitVec 8)
  /-- RDPAR.WIDTH (43_engine R196). -/
  | rdparWidth
  /-- RDPAR.POLY (43_engine R197). -/
  | rdparPoly
  /-- RDPAR.INIT (43_engine R198). -/
  | rdparInit
  /-- RDPAR.XOROUT (43_engine R199). -/
  | rdparXorout
  /-- RDPAR.REFIN (43_engine R200). -/
  | rdparRefin
  /-- RDPAR.REFOUT (43_engine R201). -/
  | rdparRefout
  /-- RDPAR.CHECK (43_engine R202). -/
  | rdparCheck
  /-- RDPAR.EXPECTED (43_engine R203). -/
  | rdparExpected
deriving DecidableEq, Repr

/-- One command transaction as the host sends it: the word, and each operand present or absent (30_encoding R90). -/
structure Command where
  word : CmdWord
  /-- The `DATA` operand, if the host sends one (30_encoding R92). -/
  data : Option Nat
  /-- The `STREAM` operand, if the host sends one (30_encoding R93). -/
  stream : Option Framing
deriving DecidableEq, Repr

/-- What the host can do to the engine and its containers (43_engine R214): issue a command, or, between commands, change
one of the containers it owns. -/
inductive HostAction where
  | issue (c : Command)
  | supply (n : Nat) (bytes : List Byte)
deriving DecidableEq, Repr

end Sys2Proof
end

