-- ==== Sys2Proof/Machine/State.lean ====
section
/-! DEFINITION. The machine's state as plain data, why a step can stop, and the state right after construction. -/

namespace Sys2Proof.Machine

/-- The response to one command (30_encoding R94). -/
inductive Response where
  /-- `value(v)`. -/
  | value (v : Nat)
  /-- `none`, for RESET and SET. -/
  | nothing
  /-- `error(code)`, for a faulting command. -/
  | error (code : FaultCode)
deriving DecidableEq, Repr

/-- The host container space (20_memory R62): the containers the host holds, by number. Canonical form (`Memory.wf`):
numbers strictly rising and no empty container listed, an unlisted container being the empty one (log entry 9). -/
abbrev Memory := List (Nat × List Byte)

/-- One engine and its host. -/
structure State where
  /-- The configuration, a parameter of every step, fixed at construction (10_state R30, 00_scope R14). It is also the
  parameter registers sel 0..5 and 7, hardwired to it (10_state R44). -/
  cfg : Config
  /-- `TABLE[0..255]`, read-only after construction (10_state R34, R45). -/
  table : List Nat
  /-- `CHECK`, a constant computed at construction (10_state R35). -/
  check : Nat
  /-- The register `current`, in the internal representation (10_state R37). -/
  current : Nat
  /-- The sticky fault record (10_state R40). -/
  fault : Option FaultRecord
  /-- The host's byte containers (20_memory R62). -/
  memory : Memory
  /-- The model's own field (log entry 5): what the host has yet to do, in order (30_encoding R90, 43_engine R213, R214). -/
  inputs : List HostAction
  /-- The responses so far, oldest first (30_encoding R94, 43_engine R213). -/
  responses : List Response
deriving DecidableEq, Repr

/-- Why the machine stops. -/
inductive Fault where
  /-- Raised by every step, and by every command, of an engine whose `fault` record is set: it has no further step
  (60_exceptions R257, 43_engine R190; "stuck" in 93_implementation_defined U7). Safe: the hardware stops too. -/
  | engineFaulted (f : FaultRecord)
deriving DecidableEq, Repr

/-- Why a command has no meaning. -/
inductive Refusal where
  /-- An arm of exec that has no meaning yet, by the table's mnemonic. Safe. No arm answers it now. -/
  | notModelled (mnemonic : String)
deriving DecidableEq, Repr

/-- The state of an engine built from `cfg` (10_state R50, 70_reset_and_hazards R270 steps 2 to 4 and 6), with a host that holds no
container and has issued nothing. Whether an engine comes to exist at all is `construct`'s to say. -/
def State.afterConstruction (cfg : Config) : State where
  cfg := cfg
  table := buildTable cfg
  check := computeCheck cfg (buildTable cfg)
  current := correctedInitial cfg
  fault := none
  memory := []
  inputs := []
  responses := []

/-- The machine right after reset: construction is the only reset (70_reset_and_hazards R271). The configuration is log entry 1's. -/
def State.reset : State :=
  State.afterConstruction Config.atReset

end Sys2Proof.Machine
end

