-- ==== Sys2Proof/Machine/Ops.lean ====
section
/-! DEFINITION. The named operations over the host's containers, the registers, the response channel, and TAKING A FAULT
(60_exceptions R256), each once. -/

namespace Sys2Proof.Machine

/-- The canonical form of the host's containers: numbers strictly rising, no empty container listed (log entry 9). -/
abbrev Memory.wf (m : Memory) : Prop :=
  m.Pairwise (fun a b => a.1 < b.1) ∧ ∀ e ∈ m, e.2 ≠ []

/-- The bytes of container `n`; an unlisted container is the empty one (log entry 9). -/
def Memory.read : Memory → Nat → List Byte
  | [], _ => []
  | (m, c) :: rest, n => if n = m then c else Memory.read rest n

/-- An entry put in front, unless it is what an unlisted container already is. -/
def Memory.entry (n : Nat) (bytes : List Byte) (rest : Memory) : Memory :=
  match bytes with
  | [] => rest
  | b :: bs => (n, b :: bs) :: rest

/-- The host replaces the bytes of container `n` (43_engine R214), keeping the canonical form. -/
def Memory.write : Memory → Nat → List Byte → Memory
  | [], n, bytes => Memory.entry n bytes []
  | (m, c) :: rest, n, bytes =>
    if n < m then Memory.entry n bytes ((m, c) :: rest)
    else if n = m then Memory.entry n bytes rest
    else (m, c) :: Memory.write rest n bytes

/-- The bytes of a container as a command names it (20_memory R62, 30_encoding R104). -/
def State.container (s : State) : Container → List Byte
  | .named n => s.memory.read n
  | .anonymous bytes => bytes

/-- `MemRead(c, p, 1)` (20_memory R62): byte `p` of container `c`, which exists when `p < size(c)`. The only host-memory
read there is, and it changes nothing (20_memory R69). -/
def State.memRead (s : State) (c : Container) (p : Nat) : Option Byte :=
  (s.container c)[p]?

/-- `TableRead(i)` on the engine's table (20_memory R61). -/
def State.tableRead (s : State) (i : Nat) : Nat :=
  Machine.tableRead s.table i

/-- `current <- v` (00_scope R19). -/
def State.setCurrent (s : State) (v : Nat) : State :=
  { s with current := v }

/-- `respond(...)`: one response on the response channel (30_encoding R94). -/
def State.respond (s : State) (r : Response) : State :=
  { s with responses := s.responses ++ [r] }

/-- TAKING A FAULT, `raise Fault(code, info)` (60_exceptions R256): `fault` is written, the response is `error(code)`, and
nothing else changes. There is no return from it (60_exceptions R257). -/
def State.raise (s : State) (f : FaultRecord) : State :=
  { s with fault := some f }.respond (.error f.code)

/-- A command issued in `s` ends in `t`, unless the engine is faulted, in which case it has no step at all
(43_engine R190: `require E.fault = none`; 60_exceptions R257). -/
def State.stepTo (s t : State) : Host.Outcome State Fault Refusal :=
  match s.fault with
  | none => .next t
  | some f => .fault (.engineFaulted f)

/-- A command that only returns `value(v)`: no state but the response list is written. -/
def State.answer (s : State) (v : Nat) : Host.Outcome State Fault Refusal :=
  s.stepTo (s.respond (.value v))

/-- The host changes container `n` between two commands (43_engine R214, 20_memory R77). The engine is not involved. -/
def State.supply (s : State) (n : Nat) (bytes : List Byte) : State :=
  { s with memory := s.memory.write n bytes }

/-- The host's next action is taken from what it has yet to do. -/
def State.withInputs (s : State) (rest : List HostAction) : State :=
  { s with inputs := rest }

end Sys2Proof.Machine
end

