-- ==== Sys2Proof/Machine/Operands.lean ====
section
/-! DEFINITION. The operand forms: framing a stream from a host container (20_memory R71-R76). -/

namespace Sys2Proof.Machine

/-- `frame(RANGE(c, begin, end))` (20_memory R72) on the bytes of `c`: `begin > end` is checked first, then `end > size(c)`
(60_exceptions R255); else the bytes at positions `begin .. end-1`. -/
def frameRange (bytes : List Byte) (start stop : Nat) : Except FaultRecord (List Byte) :=
  if start > stop then .error ⟨.rangeOrder, start⟩
  else if stop > bytes.length then .error ⟨.rangeBounds, stop⟩
  else .ok ((bytes.drop start).take (stop - start))

/-- `frame(OFFSET(c, off))` (20_memory R74). -/
def frameOffset (bytes : List Byte) (off : Nat) : Except FaultRecord (List Byte) :=
  if off > bytes.length then .error ⟨.rangeBounds, off⟩
  else frameRange bytes off bytes.length

/-- `frame(OFFLEN(c, off, n))` (20_memory R75). -/
def frameOfflen (bytes : List Byte) (off n : Nat) : Except FaultRecord (List Byte) :=
  if off + n > bytes.length then .error ⟨.rangeBounds, off + n⟩
  else frameRange bytes off (off + n)

/-- `frame(d)` (20_memory R71): the byte list a descriptor selects from the containers as they are when the command is
issued (20_memory R77), or the contract violation of the command that carries it (20_memory R76). -/
def State.frame (s : State) : Framing → Except FaultRecord (List Byte)
  | .whole c => frameRange (s.container c) 0 (s.container c).length
  | .offset c off => frameOffset (s.container c) off
  | .offlen c off n => frameOfflen (s.container c) off n
  | .range c start stop => frameRange (s.container c) start stop

end Sys2Proof.Machine
end

