-- ==== Sys2Proof/Machine/Checksum.lean ====
section
/-! DEFINITION. The commands that consume a stream: COMPUTE and CSTATIC (43_engine R193, R194). -/

namespace Sys2Proof.Machine

/-- COMPUTE (43_engine R193): frame, `current <- fold(current, s)`, respond with the finalized value. `current` keeps the
value before finalization (42_register_update R176). A framing that faults raises that fault and consumes nothing (20_memory R76). -/
def execCompute (d : Framing) (s : State) : Host.Outcome State Fault Refusal :=
  match s.frame d with
  | .error f => s.stepTo (s.raise f)
  | .ok bytes =>
    let c := fold s.cfg s.table s.current bytes
    s.stepTo ((s.setCurrent c).respond (.value (finalize s.cfg c)))

/-- CSTATIC (43_engine R194): frame, respond with `finalize(fold(CI, s))`. `current` is neither read nor written. -/
def execCstatic (d : Framing) (s : State) : Host.Outcome State Fault Refusal :=
  match s.frame d with
  | .error f => s.stepTo (s.raise f)
  | .ok bytes => s.answer (finalize s.cfg (fold s.cfg s.table (correctedInitial s.cfg) bytes))

end Sys2Proof.Machine
end

