-- ==== Sys2Proof/Decode.lean ====
section
/-! DEFINITION. Decoding a command (30_encoding R91-R103), total, and the encoder written from the same opcode map (R96). -/

namespace Sys2Proof

/-- `v[hi:lo]` of a command word (00_scope R16): the field's value as a natural. -/
def field (w : CmdWord) (hi lo : Nat) : Nat :=
  w.toNat / 2 ^ lo % 2 ^ (hi - lo + 1)

/-- Why a word is illegal. All three raise the same fault, code 0x10 with `info = cmd` (60_exceptions R249); the name is the
model's, for the reader (log entry 15). -/
inductive IllegalCause where
  /-- `OP` is 0x0 or 0x7..0xF (30_encoding R99). -/
  | reservedOp
  /-- A reserved bit of the word's format is 1 (30_encoding R100, first case). -/
  | reservedBit
  /-- An operand is missing, or one is present that the opcode does not take (30_encoding R100, second case). -/
  | operandMismatch
deriving DecidableEq, Repr

/-- What decoding answers: a command, or `Illegal(0x10, cmd)` (30_encoding R103). -/
inductive Decoded where
  | command (i : Instr)
  | illegal (why : IllegalCause) (word : CmdWord)
deriving DecidableEq, Repr

/-- Format N or P or T without operands: legal when the reserved bits are zero and neither operand is present. -/
def decodeBare (c : Command) (reserved : Nat) (i : Instr) : Decoded :=
  if reserved ≠ 0 then .illegal .reservedBit c.word
  else
    match c.data, c.stream with
    | none, none => .command i
    | _, _ => .illegal .operandMismatch c.word

/-- Format N with the `DATA` operand: SET (30_encoding R92). -/
def decodeWithData (c : Command) (reserved : Nat) (i : Nat → Instr) : Decoded :=
  if reserved ≠ 0 then .illegal .reservedBit c.word
  else
    match c.data, c.stream with
    | some v, none => .command (i v)
    | _, _ => .illegal .operandMismatch c.word

/-- Format N with the `STREAM` operand: COMPUTE and CSTATIC (30_encoding R93). -/
def decodeWithStream (c : Command) (reserved : Nat) (i : Framing → Instr) : Decoded :=
  if reserved ≠ 0 then .illegal .reservedBit c.word
  else
    match c.data, c.stream with
    | none, some d => .command (i d)
    | _, _ => .illegal .operandMismatch c.word

/-- The command RDPAR's selector `SEL = cmd[2:0]` names (30_encoding R98): all eight values are assigned. -/
def parameterCommand (sel : Nat) : Instr :=
  match sel with
  | 0 => .rdparWidth
  | 1 => .rdparPoly
  | 2 => .rdparInit
  | 3 => .rdparXorout
  | 4 => .rdparRefin
  | 5 => .rdparRefout
  | 6 => .rdparCheck
  | _ => .rdparExpected

/-- Decoding (30_encoding R103): `OP = cmd[15:12]` selects the row, then the reserved bits of the format (R95) and the
presence of the operands are checked. It does not depend on the configuration. -/
def decode (c : Command) : Decoded :=
  match field c.word 15 12 with
  | 0x1 => decodeBare c (field c.word 11 0) .reset
  | 0x2 => decodeWithData c (field c.word 11 0) .set
  | 0x3 => decodeWithStream c (field c.word 11 0) .compute
  | 0x4 => decodeWithStream c (field c.word 11 0) .cstatic
  | 0x5 => decodeBare c (field c.word 11 8) (.rdtab (BitVec.ofNat 8 (field c.word 7 0)))
  | 0x6 => decodeBare c (field c.word 11 3) (parameterCommand (field c.word 2 0))
  | _ => .illegal .reservedOp c.word

/-- The 16-bit word of a command (30_encoding R96). -/
def encodeWord : Instr → CmdWord
  | .reset => 0x1000#16
  | .set _ => 0x2000#16
  | .compute _ => 0x3000#16
  | .cstatic _ => 0x4000#16
  | .rdtab idx => BitVec.ofNat 16 (0x5000 + idx.toNat)
  | .rdparWidth => 0x6000#16
  | .rdparPoly => 0x6001#16
  | .rdparInit => 0x6002#16
  | .rdparXorout => 0x6003#16
  | .rdparRefin => 0x6004#16
  | .rdparRefout => 0x6005#16
  | .rdparCheck => 0x6006#16
  | .rdparExpected => 0x6007#16

/-- The `DATA` operand a command travels with: SET's, and no other's (30_encoding R92). -/
def encodeData : Instr → Option Nat
  | .set v => some v
  | .reset | .compute _ | .cstatic _ | .rdtab _ | .rdparWidth | .rdparPoly | .rdparInit | .rdparXorout
  | .rdparRefin | .rdparRefout | .rdparCheck | .rdparExpected => none

/-- The `STREAM` operand a command travels with: COMPUTE's and CSTATIC's, and no other's (30_encoding R93). -/
def encodeStream : Instr → Option Framing
  | .compute d => some d
  | .cstatic d => some d
  | .reset | .set _ | .rdtab _ | .rdparWidth | .rdparPoly | .rdparInit | .rdparXorout
  | .rdparRefin | .rdparRefout | .rdparCheck | .rdparExpected => none

/-- The transaction of a command: its word beside its operands (30_encoding R90). -/
def encode (i : Instr) : Command where
  word := encodeWord i
  data := encodeData i
  stream := encodeStream i

/-- One row of spec/opcode_table.json: a word `w` is of the row when `w & mask = pattern`. -/
structure OpcodeRow where
  mnemonic : String
  mask : CmdWord
  pattern : CmdWord
deriving DecidableEq, Repr

/-- spec/opcode_table.json, the machine-readable copy of 30_encoding R96. -/
def opcodeTable : List OpcodeRow :=
  [ ⟨"RESET", 0xFFFF#16, 0x1000#16⟩,
    ⟨"SET", 0xFFFF#16, 0x2000#16⟩,
    ⟨"COMPUTE", 0xFFFF#16, 0x3000#16⟩,
    ⟨"CSTATIC", 0xFFFF#16, 0x4000#16⟩,
    ⟨"RDTAB", 0xFF00#16, 0x5000#16⟩,
    ⟨"RDPAR.WIDTH", 0xFFFF#16, 0x6000#16⟩,
    ⟨"RDPAR.POLY", 0xFFFF#16, 0x6001#16⟩,
    ⟨"RDPAR.INIT", 0xFFFF#16, 0x6002#16⟩,
    ⟨"RDPAR.XOROUT", 0xFFFF#16, 0x6003#16⟩,
    ⟨"RDPAR.REFIN", 0xFFFF#16, 0x6004#16⟩,
    ⟨"RDPAR.REFOUT", 0xFFFF#16, 0x6005#16⟩,
    ⟨"RDPAR.CHECK", 0xFFFF#16, 0x6006#16⟩,
    ⟨"RDPAR.EXPECTED", 0xFFFF#16, 0x6007#16⟩ ]

/-- The mnemonic of a command, as the opcode map spells it (30_encoding R96). -/
def mnemonic : Instr → String
  | .reset => "RESET"
  | .set _ => "SET"
  | .compute _ => "COMPUTE"
  | .cstatic _ => "CSTATIC"
  | .rdtab _ => "RDTAB"
  | .rdparWidth => "RDPAR.WIDTH"
  | .rdparPoly => "RDPAR.POLY"
  | .rdparInit => "RDPAR.INIT"
  | .rdparXorout => "RDPAR.XOROUT"
  | .rdparRefin => "RDPAR.REFIN"
  | .rdparRefout => "RDPAR.REFOUT"
  | .rdparCheck => "RDPAR.CHECK"
  | .rdparExpected => "RDPAR.EXPECTED"

/-- DESIGN CHOICE (log entry 14): the transaction a bare table word stands for. Its operands travel beside the word, so
the table gives them no bits; they are the operands of zeros: `DATA = 0` for SET's word, and for the words of COMPUTE and
CSTATIC the whole of an anonymous container that holds no byte. Every other word carries no operand. -/
def commandOfWord (w : CmdWord) : Command where
  word := w
  data := if field w 15 12 = 0x2 then some 0 else none
  stream := if field w 15 12 = 0x3 ∨ field w 15 12 = 0x4 then some (.whole (.anonymous [])) else none

/-- The word laid out from `nbits` table bits, the bits above them zero (30_encoding R91: bit 0 is the least significant). -/
def tableWord (nbits w : Nat) : CmdWord :=
  BitVec.ofNat 16 (w % 2 ^ nbits)

/-- What this decoder reads from a word numbered as spec/opcode_table.json numbers it, with operands of zeros. -/
def decodeTableWord (nbits w : Nat) : Option Instr :=
  match decode (commandOfWord (tableWord nbits w)) with
  | .command i => some i
  | .illegal _ _ => none

end Sys2Proof
end

