-- ==== Sys2Proof/Machine/Exposed.lean ====
section
/-! DEFINITION. The commands that read the exposed constants: RDTAB and the eight RDPAR forms (43_engine R195-R203,
10_state R44, R45). -/

namespace Sys2Proof.Machine

/-- RDTAB (43_engine R195): `respond(value(TableRead(IDX)))`, the index zero-extended (30_encoding R97). -/
def execRdtab (idx : BitVec 8) (s : State) : Host.Outcome State Fault Refusal :=
  s.answer (s.tableRead idx.toNat)

/-- RDPAR.WIDTH (43_engine R196). -/
def execRdparWidth (s : State) : Host.Outcome State Fault Refusal :=
  s.answer s.cfg.width

/-- RDPAR.POLY (43_engine R197): the configured polynomial, never the reflected one. -/
def execRdparPoly (s : State) : Host.Outcome State Fault Refusal :=
  s.answer s.cfg.poly

/-- RDPAR.INIT (43_engine R198): `INIT` as configured, not `CI`. -/
def execRdparInit (s : State) : Host.Outcome State Fault Refusal :=
  s.answer s.cfg.init

/-- RDPAR.XOROUT (43_engine R199). -/
def execRdparXorout (s : State) : Host.Outcome State Fault Refusal :=
  s.answer s.cfg.xorout

/-- RDPAR.REFIN (43_engine R200): 1 or 0. -/
def execRdparRefin (s : State) : Host.Outcome State Fault Refusal :=
  s.answer (flagValue s.cfg.refin)

/-- RDPAR.REFOUT (43_engine R201): 1 or 0. -/
def execRdparRefout (s : State) : Host.Outcome State Fault Refusal :=
  s.answer (flagValue s.cfg.refout)

/-- The constants of the self-test are readable only with `SELFTEST`; else `Fault(0x11, cmd)` (60_exceptions R250). The word
`cmd` is the command's own, the only one that decodes to it (log entry 16). -/
def State.answerIfSelftest (s : State) (cmd : CmdWord) (v : Nat) : Host.Outcome State Fault Refusal :=
  if s.cfg.selftest then s.answer v else s.stepTo (s.raise ⟨.noSelftest, cmd.toNat⟩)

/-- RDPAR.CHECK (43_engine R202). -/
def execRdparCheck (s : State) : Host.Outcome State Fault Refusal :=
  s.answerIfSelftest (encodeWord .rdparCheck) s.check

/-- RDPAR.EXPECTED (43_engine R203). -/
def execRdparExpected (s : State) : Host.Outcome State Fault Refusal :=
  s.answerIfSelftest (encodeWord .rdparExpected) s.cfg.expectedCheck

end Sys2Proof.Machine
end

