-- ==== Sys2Proof/Machine/RegisterCommands.lean ====
section
/-! DEFINITION. The commands that write `current` directly: RESET and SET (43_engine R191, R192). -/

namespace Sys2Proof.Machine

/-- RESET (43_engine R191): `current <- CI; respond(none)`. -/
def execReset (s : State) : Host.Outcome State Fault Refusal :=
  s.stepTo ((s.setCurrent (correctedInitial s.cfg)).respond .nothing)

/-- SET (43_engine R192): `v > MASK` raises `Fault(0x20, v)`; else `current <- v; respond(none)`. -/
def execSet (v : Nat) (s : State) : Host.Outcome State Fault Refusal :=
  if v > allOnes s.cfg.width then s.stepTo (s.raise ⟨.setRange, v⟩)
  else s.stepTo ((s.setCurrent v).respond .nothing)

end Sys2Proof.Machine
end

