-- ==== Sys2Proof/Machine/Dispatch.lean ====
section
/-! DEFINITION. The dispatch: one arm per command of the opcode map (30_encoding R96, 43_engine R190). -/

namespace Sys2Proof.Machine

/-- Execute a decoded command (43_engine R190). -/
def exec (i : Instr) (s : State) : Host.Outcome State Fault Refusal :=
  match i with
  | .reset => Sys2Proof.Machine.execReset s
  | .set v => Sys2Proof.Machine.execSet v s
  | .compute d => Sys2Proof.Machine.execCompute d s
  | .cstatic d => Sys2Proof.Machine.execCstatic d s
  | .rdtab idx => Sys2Proof.Machine.execRdtab idx s
  | .rdparWidth => Sys2Proof.Machine.execRdparWidth s
  | .rdparPoly => Sys2Proof.Machine.execRdparPoly s
  | .rdparInit => Sys2Proof.Machine.execRdparInit s
  | .rdparXorout => Sys2Proof.Machine.execRdparXorout s
  | .rdparRefin => Sys2Proof.Machine.execRdparRefin s
  | .rdparRefout => Sys2Proof.Machine.execRdparRefout s
  | .rdparCheck => Sys2Proof.Machine.execRdparCheck s
  | .rdparExpected => Sys2Proof.Machine.execRdparExpected s

end Sys2Proof.Machine
end

