-- ==== Sys2Proof/Machine/Issue.lean ====
section
/-! DEFINITION. Taking the host's next action and carrying it out: what `step` calls (43_engine R190, R214). -/

namespace Sys2Proof.Machine

/-- An illegal word raises `Fault(0x10, cmd)` before any command executes (43_engine R190, 60_exceptions R249). -/
def execIllegal (word : CmdWord) (s : State) : Host.Outcome State Fault Refusal :=
  s.stepTo (s.raise ⟨.illegalWord, word.toNat⟩)

/-- One command transaction: decode it, then execute it or take the fault (43_engine R190). -/
def issueCommand (c : Command) (s : State) : Host.Outcome State Fault Refusal :=
  match decode c with
  | .command i => exec i s
  | .illegal _ word => execIllegal word s

/-- One action of the host: a command it issues, or a change of one of its containers between commands (43_engine R214). -/
def hostStep (a : HostAction) (s : State) : Host.Outcome State Fault Refusal :=
  match a with
  | .issue c => issueCommand c s
  | .supply n bytes => s.stepTo (s.supply n bytes)

/-- The next action of the host is taken and carried out. With nothing pending the engine holds its state unchanged
(60_exceptions R264; log entry 6). A faulted engine has no step (60_exceptions R257; log entry 7). -/
def advance (s : State) : Host.Outcome State Fault Refusal :=
  match s.inputs with
  | [] => s.stepTo s
  | a :: rest => hostStep a (s.withInputs rest)

/-- A command put where the next step takes its action from: at the head of what the host has yet to do (log entry 5). -/
def State.placeCommand (s : State) (c : Command) : State :=
  s.withInputs (.issue c :: s.inputs)

end Sys2Proof.Machine
end

