-- ==== Sys2Proof/Machine/Step.lean ====
section
/-! DEFINITION. One step of the machine (43_engine R190). -/

namespace Sys2Proof.Machine

/-- One step: the host's next action, atomically (20_memory R78). -/
def step (s : State) : Host.Outcome State Fault Refusal :=
  advance s

/-- The command of a table word, with operands of zeros, placed where `step` takes its next action from. -/
def State.withFetchWord (s : State) (nbits w : Nat) : State :=
  s.placeCommand (commandOfWord (tableWord nbits w))

end Sys2Proof.Machine
end

