-- ==== Sys2Proof/Machine/Api.lean ====
section
/-! DEFINITION. The source's public calls as pseudo-instructions: each is exactly one command (30_encoding R105, 43_engine
R204-R208). -/

namespace Sys2Proof.Machine

/-- The public operations and exposed constants of the source (30_encoding R105). -/
inductive ApiCall where
  /-- `reset()`. -/
  | reset
  /-- `set(value)`. -/
  | set (value : Nat)
  /-- `compute_checksum(bytes)` (43_engine R204). -/
  | computeAll (c : Container)
  /-- `compute_checksum(bytes, offset)` (43_engine R205). -/
  | computeFrom (c : Container) (offset : Nat)
  /-- `compute_checksum(bytes, offset, length)` (43_engine R206). -/
  | computeSlice (c : Container) (offset length : Nat)
  /-- `compute_checksum(begin, end)` (43_engine R207). -/
  | computeRange (c : Container) (start stop : Nat)
  /-- `compute_checksum_static(begin, end)` (43_engine R208): the only form of the static operation. -/
  | staticRange (c : Container) (start stop : Nat)
  /-- The exposed constants. -/
  | width
  | polynomial
  | initial
  | finalXor
  | reflectInput
  | reflectOutput
  /-- `table[i]`. -/
  | tableEntry (i : BitVec 8)
  | check
  | expectedCheck
deriving DecidableEq, Repr

/-- The command a call expands to (30_encoding R105). -/
def ApiCall.expand : ApiCall → Instr
  | .reset => .reset
  | .set v => .set v
  | .computeAll c => .compute (.whole c)
  | .computeFrom c off => .compute (.offset c off)
  | .computeSlice c off n => .compute (.offlen c off n)
  | .computeRange c start stop => .compute (.range c start stop)
  | .staticRange c start stop => .cstatic (.range c start stop)
  | .width => .rdparWidth
  | .polynomial => .rdparPoly
  | .initial => .rdparInit
  | .finalXor => .rdparXorout
  | .reflectInput => .rdparRefin
  | .reflectOutput => .rdparRefout
  | .tableEntry i => .rdtab i
  | .check => .rdparCheck
  | .expectedCheck => .rdparExpected

end Sys2Proof.Machine
end

