-- ==== Sys2Proof/Machine/BitSerial.lean ====
section
/-! DEFINITION. The bit-serial reference of 41_table_generator R155 and 42_register_update R179. The machine does not use
it: it is the clear definition the table-driven datapath is held against. -/

namespace Sys2Proof.Machine

/-- `step(r, bit)` (41_table_generator R155): `fb = r[W-1] XOR bit; r = (r << 1) & MASK; if fb = 1: r = r XOR POLY`. -/
def serialStep (w poly r : Nat) (bit : Bool) : Nat :=
  let shifted := maskTo w (r <<< 1)
  if xor (r.testBit (w - 1)) bit then shifted ^^^ poly else shifted

/-- The top `n` of the low `n` bits of `b` fed most significant first: `b[n-1]`, ..., `b[0]`. -/
def serialBits (w poly b : Nat) : Nat → Nat → Nat
  | 0, r => r
  | n + 1, r => serialBits w poly b n (serialStep w poly r (b.testBit n))

/-- One byte, most significant bit first. -/
def serialByte (w poly r b : Nat) : Nat :=
  serialBits w poly b 8 r

/-- `bitfold(r, s)` (42_register_update R179). -/
def bitfold (w poly : Nat) : Nat → List Nat → Nat
  | r, [] => r
  | r, b :: s => bitfold w poly (serialByte w poly r b) s

/-- `if REFIN then map(reflect_byte(., 8), s) else s` (42_register_update R179). -/
def serialInput (cfg : Config) (s : List Byte) : List Nat :=
  if cfg.refin then s.map (fun b => reflectByte b.toNat 8) else s.map (fun b => b.toNat)

/-- The checksum of 42_register_update R179's right-hand side:
`(if REFOUT then reflect_register(R) else R) XOR XOROUT` with `R = bitfold(INIT, ...)`. -/
def serialChecksum (cfg : Config) (s : List Byte) : Nat :=
  let r := bitfold cfg.width cfg.poly cfg.init (serialInput cfg s)
  (if cfg.refout then reflectRegister cfg.width r else r) ^^^ cfg.xorout

end Sys2Proof.Machine
end

