-- ==== Sys2Proof/Machine/Construct.lean ====
section
/-! DEFINITION. Construction of an engine from a configuration (70_reset_and_hazards R270): it returns an engine or a typed
configuration error (60_exceptions R247). -/

namespace Sys2Proof.Machine

/-- `validate(cfg)` (60_exceptions R248): the first of R241 to R245 that applies, in that order. -/
def validate (cfg : Config) : Option ConfigError :=
  if cfg.width = 0 then some .widthZero
  else if cfg.width > cfg.cap then some .widthOverCap
  else if cfg.poly ≥ 2 ^ cfg.width then some .polyRange
  else if cfg.init ≥ 2 ^ cfg.width then some .initRange
  else if cfg.xorout ≥ 2 ^ cfg.width then some .xoroutRange
  else none

/-- The self-test (43_engine R210): with `SELFTEST`, `CHECK` is compared with `EXPECTED_CHECK` as natural numbers. -/
def selftestFails (cfg : Config) (check : Nat) : Bool :=
  cfg.selftest && decide (check ≠ cfg.expectedCheck)

/-- `construct(cfg)` (70_reset_and_hazards R270). -/
def construct (cfg : Config) : Except ConfigError State :=
  match validate cfg with
  | some e => .error e
  | none =>
    if selftestFails cfg (State.afterConstruction cfg).check then .error .selftestMismatch
    else .ok (State.afterConstruction cfg)

end Sys2Proof.Machine
end

