-- ==== Sys2Proof/Safety.lean ====
section
/-! DEFINITION. What the claims are stated in: the engine's invariant, and how a run ends (43_engine R213). -/

namespace Sys2Proof.Machine

/-- A response fits the response channel: a returned value is below `2^CAP` (30_encoding R94). -/
def Response.fits (cap : Nat) : Response → Prop
  | .value v => v < 2 ^ cap
  | .nothing => True
  | .error _ => True

/-- A configuration an engine can be built from, the self-test apart (60_exceptions R241-R245). -/
abbrev legalConfig (cfg : Config) : Prop :=
  1 ≤ cfg.width ∧ cfg.width ≤ cfg.cap ∧ cfg.poly < 2 ^ cfg.width ∧ cfg.init < 2 ^ cfg.width ∧ cfg.xorout < 2 ^ cfg.width

/-- The invariant of every engine that exists. -/
structure EngineInv (s : State) : Prop where
  /-- The configuration passed validation (60_exceptions R247). -/
  legal : legalConfig s.cfg
  /-- The table is the one construction built (10_state R34). -/
  table : s.table = buildTable s.cfg
  /-- `CHECK` is the computed check value (10_state R35, 43_engine R209). -/
  check : s.check = computeCheck s.cfg s.table
  /-- With the self-test, `CHECK = EXPECTED_CHECK` (43_engine R202, R210). -/
  selftest : s.cfg.selftest = true → s.check = s.cfg.expectedCheck
  /-- `current <= MASK` (10_state R37). -/
  current : s.current ≤ allOnes s.cfg.width
  /-- Every response fits the response channel (30_encoding R94). -/
  responses : ∀ r ∈ s.responses, Response.fits s.cfg.cap r
  /-- The host's containers are in canonical form (log entry 9). -/
  memory : s.memory.wf

/-- A run ends normally when every action has been carried out and there is no fault (43_engine R213). -/
def State.endsNormally (s : State) : Prop :=
  s.inputs = [] ∧ s.fault = none

/-- A run ends faulted when a command has faulted (43_engine R213). It is never a normal end. -/
def State.endsFaulted (s : State) : Prop :=
  s.fault ≠ none

/-- What is observed at the end of a run: the response list and `current` (43_engine R213). -/
def State.observation (s : State) : List Response × Nat :=
  (s.responses, s.current)

/-- `n` steps of the machine. -/
def runFor (n : Nat) (s : State) : Host.Outcome State Fault Refusal :=
  Host.Core.run Sys2Proof.core n s

/-- How many of the host's actions are commands. -/
def commandCount : List HostAction → Nat
  | [] => 0
  | .issue _ :: rest => commandCount rest + 1
  | .supply _ _ :: rest => commandCount rest

/-- A natural read as a polynomial over GF(2): bit `k` is the coefficient of `x^k` (00_scope R11, 41_table_generator R155).
Only claims use it. -/
noncomputable def bitPolynomial (v : Nat) : Polynomial (ZMod 2) :=
  ∑ k ∈ Finset.range (Nat.size v), if v.testBit k then Polynomial.X ^ k else 0

end Sys2Proof.Machine
end

