-- ==== Sys2Proof/Certificates/Slice0/Obligations.lean ====
section
/-! DEFINITION. The statements for the provers, each from the numbered rules of spec/ that its docstring names. -/

open Sys2Proof Sys2Proof.Machine

/-! ### Encoding and decoding -/

/-- Decoding the transaction of any command gives the command back, with every operand at every value (30_encoding R96, R103). -/
def Obligations.DecodeEncodeRoundTrip : Prop :=
  ∀ i : Instr, decode (encode i) = .command i

/-- A transaction that decodes to a command is that command's own transaction: each word has one meaning (30_encoding R96, R101). -/
def Obligations.EncodeDecodeRoundTrip : Prop :=
  ∀ (c : Command) (i : Instr), decode c = .command i → encode i = c

/-- A transaction decodes to a command exactly when its opcode is assigned, the reserved bits of its format are zero, and
exactly the operands of its opcode are present (30_encoding R95, R99, R100, R101, R103). -/
def Obligations.DecodesExactlyLegalTransactions : Prop :=
  ∀ c : Command,
    (∃ i, decode c = .command i) ↔
      (1 ≤ field c.word 15 12 ∧ field c.word 15 12 ≤ 6) ∧
      (field c.word 15 12 ≤ 4 → field c.word 11 0 = 0) ∧
      (field c.word 15 12 = 5 → field c.word 11 8 = 0) ∧
      (field c.word 15 12 = 6 → field c.word 11 3 = 0) ∧
      (c.data.isSome = true ↔ field c.word 15 12 = 2) ∧
      (c.stream.isSome = true ↔ field c.word 15 12 = 3 ∨ field c.word 15 12 = 4)

/-- Words of 95_test_vectors L2.6, written out from 30_encoding R96, decode as listed there. -/
def Obligations.DecodesSpecWords : Prop :=
  decode ⟨0b0001000000000000#16, none, none⟩ = .command .reset ∧
  decode ⟨0b0010000000000000#16, some 5, none⟩ = .command (.set 5) ∧
  decode ⟨0b0011000000000000#16, none, some (.whole (.named 0))⟩ = .command (.compute (.whole (.named 0))) ∧
  decode ⟨0b0100000000000000#16, none, some (.range (.named 0) 2 5)⟩ = .command (.cstatic (.range (.named 0) 2 5)) ∧
  decode ⟨0b0101000011111111#16, none, none⟩ = .command (.rdtab 255#8) ∧
  decode ⟨0b0110000000000000#16, none, none⟩ = .command .rdparWidth ∧
  decode ⟨0b0110000000000111#16, none, none⟩ = .command .rdparExpected ∧
  (∀ i, decode ⟨0x0000#16, none, none⟩ ≠ .command i) ∧
  (∀ i, decode ⟨0x1001#16, none, none⟩ ≠ .command i) ∧
  (∀ i, decode ⟨0x1000#16, some 0, none⟩ ≠ .command i) ∧
  (∀ i, decode ⟨0x2000#16, none, none⟩ ≠ .command i) ∧
  (∀ i, decode ⟨0x5100#16, none, none⟩ ≠ .command i) ∧
  (∀ i, decode ⟨0x6008#16, none, none⟩ ≠ .command i)

/-! ### The step -/

/-- A step runs the decoded command: when the host's next action is a command whose transaction decodes to `i`, the step
is `exec i` on the state with that action taken (43_engine R190). -/
def Obligations.StepRunsDecodedCommand : Prop :=
  ∀ (s : State) (c : Command) (rest : List HostAction) (i : Instr),
    s.inputs = .issue c :: rest → decode c = .command i → step s = exec i { s with inputs := rest }

/-- An illegal transaction faults before any command executes: a reserved opcode (30_encoding R99), a reserved bit that is 1
or operands that do not match the opcode raise `Fault(0x10, cmd)` (60_exceptions R249). -/
def Obligations.IllegalTransactionsFault : Prop :=
  FaultCode.illegalWord.number = 0x10 ∧
  ∀ (s : State) (c : Command) (rest : List HostAction),
    s.fault = none → s.inputs = .issue c :: rest →
    (field c.word 15 12 = 0 ∨ 7 ≤ field c.word 15 12 ∨
      (field c.word 15 12 ≤ 4 ∧ field c.word 11 0 ≠ 0) ∨
      (field c.word 15 12 = 5 ∧ field c.word 11 8 ≠ 0) ∨
      (field c.word 15 12 = 6 ∧ field c.word 11 3 ≠ 0) ∨
      (field c.word 15 12 = 2 ∧ c.data = none) ∨
      (field c.word 15 12 ≠ 2 ∧ c.data ≠ none) ∨
      ((field c.word 15 12 = 3 ∨ field c.word 15 12 = 4) ∧ c.stream = none) ∨
      (field c.word 15 12 ≠ 3 ∧ field c.word 15 12 ≠ 4 ∧ c.stream ≠ none)) →
    step s = .next { s with
      inputs := rest
      fault := some ⟨.illegalWord, c.word.toNat⟩
      responses := s.responses ++ [.error .illegalWord] }

/-- With nothing pending the engine holds its state unchanged (60_exceptions R264; the idle step is log entry 6). -/
def Obligations.IdleEngineHoldsState : Prop :=
  ∀ s : State, s.fault = none → s.inputs = [] → step s = .next s

/-- A faulted engine takes no further step and no command, RESET among them, executes in it (60_exceptions R257). -/
def Obligations.FaultedEngineHasNoStep : Prop :=
  ∀ (s : State) (f : FaultRecord), s.fault = some f →
    step s = .fault (.engineFaulted f) ∧ ∀ i : Instr, exec i s = .fault (.engineFaulted f)

/-- The host may change its containers between commands (43_engine R214): the container then holds the new bytes, every
other container and everything of the engine is as before. -/
def Obligations.HostSupplyTouchesOnlyContainers : Prop :=
  ∀ (s : State) (n : Nat) (bytes : List Byte) (rest : List HostAction),
    s.fault = none → s.memory.wf → s.inputs = .supply n bytes :: rest →
    ∃ m : Memory, step s = .next { s with inputs := rest, memory := m } ∧ m.wf ∧
      m.read n = bytes ∧ ∀ k, k ≠ n → m.read k = s.memory.read k

/-! ### The commands -/

/-- RESET (43_engine R191): `current <- CI; respond(none)`, nothing else; repeating it is free of effect; a COMPUTE over the
empty stream then returns `finalize(CI)`. -/
def Obligations.ResetCommand : Prop :=
  decode ⟨0x1000#16, none, none⟩ = .command .reset ∧
  ∀ s : State, s.fault = none → ∃ t : State,
    exec .reset s = .next t ∧
    t = { s with current := correctedInitial s.cfg, responses := s.responses ++ [.nothing] } ∧
    exec .reset t = .next { t with responses := t.responses ++ [.nothing] } ∧
    ∀ d : Framing, t.frame d = .ok [] →
      exec (.compute d) t =
        .next { t with responses := t.responses ++ [.value (finalize s.cfg (correctedInitial s.cfg))] }

/-- SET (43_engine R192): a value of at most `MASK` becomes `current`; a wider one raises `Fault(0x20, v)` and writes nothing
else; `SET CI` has the effect of RESET. -/
def Obligations.SetCommand : Prop :=
  FaultCode.setRange.number = 0x20 ∧
  ∀ (s : State) (v : Nat), s.fault = none →
    decode ⟨0x2000#16, some v, none⟩ = .command (.set v) ∧
    (v ≤ 2 ^ s.cfg.width - 1 →
      exec (.set v) s = .next { s with current := v, responses := s.responses ++ [.nothing] }) ∧
    (v > 2 ^ s.cfg.width - 1 →
      exec (.set v) s = .next { s with
        fault := some ⟨.setRange, v⟩, responses := s.responses ++ [.error .setRange] }) ∧
    (legalConfig s.cfg → exec (.set (correctedInitial s.cfg)) s = exec .reset s)

/-- COMPUTE (43_engine R193): with a stream that frames, `current <- fold(current, s)` and the response is the finalized
value, of `W` bits; with a framing that faults, that fault and nothing else, and it is 0x21 or 0x22. -/
def Obligations.ComputeCommand : Prop :=
  FaultCode.rangeOrder.number = 0x21 ∧ FaultCode.rangeBounds.number = 0x22 ∧
  ∀ (s : State) (d : Framing), s.fault = none →
    decode ⟨0x3000#16, none, some d⟩ = .command (.compute d) ∧
    (∀ bytes, s.frame d = .ok bytes →
      exec (.compute d) s = .next { s with
        current := fold s.cfg s.table s.current bytes
        responses := s.responses ++ [.value (finalize s.cfg (fold s.cfg s.table s.current bytes))] } ∧
      (legalConfig s.cfg → s.current ≤ 2 ^ s.cfg.width - 1 →
        finalize s.cfg (fold s.cfg s.table s.current bytes) < 2 ^ s.cfg.width)) ∧
    (∀ f, s.frame d = .error f →
      (f.code = .rangeOrder ∨ f.code = .rangeBounds) ∧
      exec (.compute d) s = .next { s with fault := some f, responses := s.responses ++ [.error f.code] })

/-- CSTATIC (43_engine R194): with a stream that frames, the response is `finalize(fold(CI, s))`, no state is written, and
the response does not depend on `current`; with a framing that faults, that fault and nothing else. -/
def Obligations.CstaticCommand : Prop :=
  ∀ (s : State) (d : Framing), s.fault = none →
    decode ⟨0x4000#16, none, some d⟩ = .command (.cstatic d) ∧
    (∀ bytes, s.frame d = .ok bytes → ∀ c : Nat,
      exec (.cstatic d) { s with current := c } = .next { s with
        current := c
        responses := s.responses ++
          [.value (finalize s.cfg (fold s.cfg s.table (correctedInitial s.cfg) bytes))] }) ∧
    (∀ f, s.frame d = .error f →
      (f.code = .rangeOrder ∨ f.code = .rangeBounds) ∧
      exec (.cstatic d) s = .next { s with fault := some f, responses := s.responses ++ [.error f.code] })

/-- RDTAB (43_engine R195): the response is the entry at the index, nothing is written, every index is valid, and entry 0 is 0. -/
def Obligations.RdtabCommand : Prop :=
  (∀ idx : BitVec 8, decode ⟨BitVec.ofNat 16 (0x5000 + idx.toNat), none, none⟩ = .command (.rdtab idx)) ∧
  ∀ (s : State) (idx : BitVec 8), EngineInv s → s.fault = none → ∃ e : Nat,
    s.table[idx.toNat]? = some e ∧
    exec (.rdtab idx) s = .next { s with responses := s.responses ++ [.value e] } ∧
    (idx = 0#8 → e = 0)

/-- RDPAR.WIDTH, POLY, INIT, XOROUT, REFIN and REFOUT (43_engine R196-R201): each returns its configured value, the flags as 1
or 0, and writes nothing. -/
def Obligations.RdparConstantCommands : Prop :=
  ∀ s : State, s.fault = none →
    (decode ⟨0x6000#16, none, none⟩ = .command .rdparWidth ∧
      exec .rdparWidth s = .next { s with responses := s.responses ++ [.value s.cfg.width] }) ∧
    (decode ⟨0x6001#16, none, none⟩ = .command .rdparPoly ∧
      exec .rdparPoly s = .next { s with responses := s.responses ++ [.value s.cfg.poly] }) ∧
    (decode ⟨0x6002#16, none, none⟩ = .command .rdparInit ∧
      exec .rdparInit s = .next { s with responses := s.responses ++ [.value s.cfg.init] }) ∧
    (decode ⟨0x6003#16, none, none⟩ = .command .rdparXorout ∧
      exec .rdparXorout s = .next { s with responses := s.responses ++ [.value s.cfg.xorout] }) ∧
    (decode ⟨0x6004#16, none, none⟩ = .command .rdparRefin ∧
      exec .rdparRefin s = .next { s with responses := s.responses ++ [.value (if s.cfg.refin then 1 else 0)] }) ∧
    (decode ⟨0x6005#16, none, none⟩ = .command .rdparRefout ∧
      exec .rdparRefout s = .next { s with responses := s.responses ++ [.value (if s.cfg.refout then 1 else 0)] }) ∧
    (legalConfig s.cfg → 1 ≤ s.cfg.width ∧ s.cfg.width ≤ s.cfg.cap)

/-- RDPAR.CHECK and RDPAR.EXPECTED with the self-test (43_engine R202, R203): the computed and the expected check value,
which are equal in any engine that exists. -/
def Obligations.RdparSelftestCommands : Prop :=
  decode ⟨0x6006#16, none, none⟩ = .command .rdparCheck ∧
  decode ⟨0x6007#16, none, none⟩ = .command .rdparExpected ∧
  ∀ s : State, s.fault = none → s.cfg.selftest = true →
    exec .rdparCheck s = .next { s with responses := s.responses ++ [.value s.check] } ∧
    exec .rdparExpected s = .next { s with responses := s.responses ++ [.value s.cfg.expectedCheck] } ∧
    (EngineInv s → s.check = s.cfg.expectedCheck ∧
      s.check = finalize s.cfg (fold s.cfg s.table (correctedInitial s.cfg)
        [0x31, 0x32, 0x33, 0x34, 0x35, 0x36, 0x37, 0x38, 0x39]))

/-- RDPAR.CHECK and RDPAR.EXPECTED without the self-test raise `Fault(0x11, cmd)` (60_exceptions R250). -/
def Obligations.NoSelftestFaults : Prop :=
  FaultCode.noSelftest.number = 0x11 ∧
  ∀ s : State, s.fault = none → s.cfg.selftest = false →
    exec .rdparCheck s = .next { s with
      fault := some ⟨.noSelftest, 0x6006⟩, responses := s.responses ++ [.error .noSelftest] } ∧
    exec .rdparExpected s = .next { s with
      fault := some ⟨.noSelftest, 0x6007⟩, responses := s.responses ++ [.error .noSelftest] }

/-! ### Framing -/

/-- RANGE (20_memory R72): the bytes at positions `begin .. end-1`, read one by one, or the two contract violations in order. -/
def Obligations.RangeFraming : Prop :=
  ∀ (s : State) (c : Container) (b e : Nat),
    (b > e → s.frame (.range c b e) = .error ⟨.rangeOrder, b⟩) ∧
    (b ≤ e → e > (s.container c).length → s.frame (.range c b e) = .error ⟨.rangeBounds, e⟩) ∧
    (b ≤ e → e ≤ (s.container c).length → ∃ bytes : List Byte,
      s.frame (.range c b e) = .ok bytes ∧ bytes.length = e - b ∧
      ∀ k, k < e - b → bytes[k]? = s.memRead c (b + k) ∧ (s.memRead c (b + k)).isSome = true)

/-- WHOLE and OFFSET (20_memory R73, R74): ranges that end where the container ends; WHOLE never faults, OFFSET faults when the
offset is past the end. -/
def Obligations.WholeAndOffsetFraming : Prop :=
  ∀ (s : State) (c : Container) (off : Nat),
    s.frame (.whole c) = s.frame (.range c 0 (s.container c).length) ∧
    s.frame (.whole c) = .ok (s.container c) ∧
    (off > (s.container c).length → s.frame (.offset c off) = .error ⟨.rangeBounds, off⟩) ∧
    (off ≤ (s.container c).length →
      s.frame (.offset c off) = s.frame (.range c off (s.container c).length) ∧
      s.frame (.offset c off) = .ok ((s.container c).drop off))

/-- OFFLEN (20_memory R75): `n` bytes from position `off`, the same as the range that ends at `off + n`; past the end it faults
with the end as info. -/
def Obligations.OfflenFraming : Prop :=
  ∀ (s : State) (c : Container) (off n : Nat),
    s.frame (.offlen c off n) = s.frame (.range c off (off + n)) ∧
    (off + n > (s.container c).length → s.frame (.offlen c off n) = .error ⟨.rangeBounds, off + n⟩) ∧
    (off + n ≤ (s.container c).length → s.frame (.offlen c off n) = .ok (((s.container c).drop off).take n))

/-- A range that begins past its end makes COMPUTE and CSTATIC raise `Fault(0x21, begin)`, whatever the container's size
(60_exceptions R252, R255). -/
def Obligations.RangeOrderFaults : Prop :=
  FaultCode.rangeOrder.number = 0x21 ∧
  ∀ (s : State) (c : Container) (b e : Nat) (i : Instr),
    s.fault = none → b > e → (i = .compute (.range c b e) ∨ i = .cstatic (.range c b e)) →
    exec i s = .next { s with
      fault := some ⟨.rangeOrder, b⟩, responses := s.responses ++ [.error .rangeOrder] }

/-- A framing that reaches past the end of its container makes COMPUTE and CSTATIC raise `Fault(0x22, bound)`
(60_exceptions R253): the end of a RANGE in order, the offset, or offset plus length. -/
def Obligations.RangeBoundsFaults : Prop :=
  FaultCode.rangeBounds.number = 0x22 ∧
  ∀ (s : State) (c : Container) (d : Framing) (bound : Nat) (i : Instr),
    s.fault = none → bound > (s.container c).length →
    ((∃ b, b ≤ bound ∧ d = .range c b bound) ∨ d = .offset c bound ∨
      (∃ off n, off + n = bound ∧ d = .offlen c off n)) →
    (i = .compute d ∨ i = .cstatic d) →
    exec i s = .next { s with
      fault := some ⟨.rangeBounds, bound⟩, responses := s.responses ++ [.error .rangeBounds] }

/-- The public calls (43_engine R204-R208): the whole-container form always completes; the offset form completes within the
container; the offset-and-length form is the range form that ends at their sum; the static form answers from any `current`. -/
def Obligations.ApiCallForms : Prop :=
  ∀ (s : State) (c : Container) (off n : Nat), s.fault = none →
    exec (ApiCall.computeAll c).expand s = .next { s with
      current := fold s.cfg s.table s.current (s.container c)
      responses := s.responses ++ [.value (finalize s.cfg (fold s.cfg s.table s.current (s.container c)))] } ∧
    (off ≤ (s.container c).length →
      exec (ApiCall.computeFrom c off).expand s = .next { s with
        current := fold s.cfg s.table s.current ((s.container c).drop off)
        responses := s.responses ++
          [.value (finalize s.cfg (fold s.cfg s.table s.current ((s.container c).drop off)))] }) ∧
    exec (ApiCall.computeSlice c off n).expand s = exec (ApiCall.computeRange c off (off + n)).expand s ∧
    (off + n ≤ (s.container c).length →
      exec (ApiCall.staticRange c off (off + n)).expand s = .next { s with
        responses := s.responses ++ [.value (finalize s.cfg (fold s.cfg s.table (correctedInitial s.cfg)
          (((s.container c).drop off).take n)))] })

/-! ### What every command leaves alone -/

/-- The frame of the commands that write `current`, RESET, SET and COMPUTE (10_state R38): nothing but `current` and the response
list changes, or, when the command faults, nothing but the fault record and the response list. RESET never faults. -/
def Obligations.CurrentWritersFrame : Prop :=
  ∀ (s t : State) (v : Nat) (d : Framing) (i : Instr),
    (i = .reset ∨ i = .set v ∨ i = .compute d) → exec i s = .next t →
    t.cfg = s.cfg ∧ t.table = s.table ∧ t.check = s.check ∧ t.inputs = s.inputs ∧ t.memory = s.memory ∧
    (∀ (c : Container) (p : Nat), t.memRead c p = s.memRead c p) ∧
    (∃ r, t.responses = s.responses ++ [r]) ∧
    (t.fault = s.fault ∨ t.current = s.current ∧ i ≠ .reset ∧ ∃ f, t.fault = some f)

/-- The frame of the commands that do not write `current`, CSTATIC, RDTAB and every RDPAR form (10_state R38): nothing but
the response list changes, and the fault record when the command faults. RDTAB and the first six RDPAR forms never fault. -/
def Obligations.PureCommandsFrame : Prop :=
  ∀ (s t : State) (d : Framing) (idx : BitVec 8) (i : Instr),
    (i = .cstatic d ∨ i = .rdtab idx ∨ i = .rdparWidth ∨ i = .rdparPoly ∨ i = .rdparInit ∨ i = .rdparXorout ∨
      i = .rdparRefin ∨ i = .rdparRefout ∨ i = .rdparCheck ∨ i = .rdparExpected) → exec i s = .next t →
    t.cfg = s.cfg ∧ t.table = s.table ∧ t.check = s.check ∧ t.current = s.current ∧ t.inputs = s.inputs ∧
    t.memory = s.memory ∧ (∀ (c : Container) (p : Nat), t.memRead c p = s.memRead c p) ∧
    (∃ r, t.responses = s.responses ++ [r]) ∧
    (t.fault = s.fault ∨ (i = .cstatic d ∨ i = .rdparCheck ∨ i = .rdparExpected) ∧ ∃ f, t.fault = some f)

/-- Who writes `current` (10_state R38): if a command changes it, the command is RESET and it is `CI`, or SET and it is the
operand, or COMPUTE and it is the fold of the framed stream. -/
def Obligations.OnlyWritersChangeCurrent : Prop :=
  ∀ (i : Instr) (s t : State), exec i s = .next t → t.current ≠ s.current →
    (i = .reset ∧ t.current = correctedInitial s.cfg) ∨
    (∃ v, i = .set v ∧ t.current = v ∧ v ≤ 2 ^ s.cfg.width - 1) ∨
    (∃ d bytes, i = .compute d ∧ s.frame d = .ok bytes ∧ t.current = fold s.cfg s.table s.current bytes)

/-- No step changes the configuration, the table or the check value (00_scope R14, 10_state R34, R45, 20_memory R79). -/
def Obligations.StepKeepsConstants : Prop :=
  ∀ s t : State, step s = .next t → t.cfg = s.cfg ∧ t.table = s.table ∧ t.check = s.check

/-- A faulting command writes nothing but the fault record and its response (60_exceptions R256): faults are precise. -/
def Obligations.FaultEntryIsPrecise : Prop :=
  ∀ (s t : State) (c : Command) (rest : List HostAction) (f : FaultRecord),
    s.inputs = .issue c :: rest → step s = .next t → t.fault = some f →
    s.fault = none ∧
    t = { s with inputs := rest, fault := some f, responses := s.responses ++ [.error f.code] }

/-- Which command raises which fault, and with which info (60_exceptions R249-R253, R255): SET only 0x20 with its operand,
COMPUTE and CSTATIC only the fault of their framing, RDPAR.CHECK and RDPAR.EXPECTED only 0x11 with their word, every
other command none. -/
def Obligations.FaultsByCommand : Prop :=
  ∀ (i : Instr) (s t : State) (f : FaultRecord), exec i s = .next t → t.fault = some f →
    (∃ v, i = .set v ∧ f = ⟨.setRange, v⟩ ∧ v > 2 ^ s.cfg.width - 1) ∨
    (∃ d, (i = .compute d ∨ i = .cstatic d) ∧ s.frame d = .error f ∧ (f.code = .rangeOrder ∨ f.code = .rangeBounds)) ∨
    (s.cfg.selftest = false ∧
      ((i = .rdparCheck ∧ f = ⟨.noSelftest, 0x6006⟩) ∨ (i = .rdparExpected ∧ f = ⟨.noSelftest, 0x6007⟩)))

/-- Every command is answered with exactly one response (30_encoding R90, R94): `error` with the fault's code exactly when it
faults, `none` exactly for RESET and SET that do not fault, a value otherwise. -/
def Obligations.OneResponsePerCommand : Prop :=
  ∀ (s t : State) (c : Command) (rest : List HostAction),
    s.inputs = .issue c :: rest → step s = .next t →
    ∃ r : Response, t.responses = s.responses ++ [r] ∧
      (∀ f, t.fault = some f → r = .error f.code) ∧
      (t.fault = none → (decode c = .command .reset ∨ ∃ v, decode c = .command (.set v)) → r = .nothing) ∧
      (t.fault = none → decode c ≠ .command .reset → (∀ v, decode c ≠ .command (.set v)) → ∃ v, r = .value v)

/-- CSTATIC, RDTAB and RDPAR read no mutable state of the engine (20_memory R81): on two engines without a fault that agree
in their constants and in the host's containers, they end alike and give the same response, whatever `current` and the
earlier responses are. -/
def Obligations.PureCommandsReadNoMutableState : Prop :=
  ∀ (i : Instr) (s u t : State),
    i ≠ .reset → (∀ v, i ≠ .set v) → (∀ d, i ≠ .compute d) →
    u.cfg = s.cfg → u.table = s.table → u.check = s.check → u.memory = s.memory → u.fault = none →
    exec i s = .next t →
    ∃ (w : State) (r : Response), exec i u = .next w ∧ w.fault = t.fault ∧
      t.responses = s.responses ++ [r] ∧ w.responses = u.responses ++ [r]

/-! ### Invariants -/

/-- Every step keeps the invariant of an engine that exists: the configuration is legal, the table and the check value are the
ones construction built, `current <= MASK`, every response fits the channel, the host's containers are in canonical form
(10_state R34, R35, R37, 30_encoding R94, 43_engine R202). -/
def Obligations.StepKeepsEngineInv : Prop :=
  ∀ s t : State, EngineInv s → step s = .next t → EngineInv t

/-- Every engine that construction returns meets the invariant (60_exceptions R247, 70_reset_and_hazards R270). -/
def Obligations.ConstructionGivesEngineInv : Prop :=
  ∀ (cfg : Config) (s : State), construct cfg = .ok s → EngineInv s

/-- The machine right after reset meets the invariant, and it is what construction returns for the configuration of log entry 1
(70_reset_and_hazards R271): the self-test passes with the check value 0xCBF43926 and nothing is pending. The configuration is the
model's choice, not the spec's. -/
def Obligations.ResetMeetsEngineInv : Prop :=
  EngineInv State.reset ∧ construct Config.atReset = .ok State.reset ∧ State.reset.current = 0xFFFFFFFF ∧
  State.reset.fault = none ∧ State.reset.check = 0xCBF43926 ∧ State.reset.inputs = [] ∧ State.reset.responses = []

/-! ### Construction -/

/-- What construction returns (60_exceptions R241-R246, R248): the first configuration error that applies, in this order, and an
engine when none does. -/
def Obligations.ConfigurationErrorsInOrder : Prop :=
  ConfigError.widthZero.number = 0x01 ∧ ConfigError.widthOverCap.number = 0x02 ∧ ConfigError.polyRange.number = 0x03 ∧
  ConfigError.initRange.number = 0x04 ∧ ConfigError.xoroutRange.number = 0x05 ∧
  ConfigError.selftestMismatch.number = 0x06 ∧
  ∀ cfg : Config,
    (cfg.width = 0 → construct cfg = .error .widthZero) ∧
    (cfg.width ≠ 0 → cfg.width > cfg.cap → construct cfg = .error .widthOverCap) ∧
    (1 ≤ cfg.width → cfg.width ≤ cfg.cap → cfg.poly ≥ 2 ^ cfg.width → construct cfg = .error .polyRange) ∧
    (1 ≤ cfg.width → cfg.width ≤ cfg.cap → cfg.poly < 2 ^ cfg.width → cfg.init ≥ 2 ^ cfg.width →
      construct cfg = .error .initRange) ∧
    (1 ≤ cfg.width → cfg.width ≤ cfg.cap → cfg.poly < 2 ^ cfg.width → cfg.init < 2 ^ cfg.width →
      cfg.xorout ≥ 2 ^ cfg.width → construct cfg = .error .xoroutRange) ∧
    (legalConfig cfg → cfg.selftest = true → computeCheck cfg (buildTable cfg) ≠ cfg.expectedCheck →
      construct cfg = .error .selftestMismatch) ∧
    (legalConfig cfg → (cfg.selftest = true → computeCheck cfg (buildTable cfg) = cfg.expectedCheck) →
      ∃ s, construct cfg = .ok s)

/-- The state after construction (10_state R50), and what RESET restores in it. -/
def Obligations.ConstructedState : Prop :=
  ∀ (cfg : Config) (s : State), construct cfg = .ok s →
    s.cfg = cfg ∧ s.fault = none ∧
    s.current = (if cfg.refin then reflectRegister cfg.width cfg.init else cfg.init) ∧
    s.table = (if cfg.refin then buildReflected cfg.width (buildBase cfg.width cfg.poly)
      else buildBase cfg.width cfg.poly) ∧
    s.check = finalize cfg (fold cfg s.table s.current
      [0x31, 0x32, 0x33, 0x34, 0x35, 0x36, 0x37, 0x38, 0x39]) ∧
    ∀ v, exec .reset { s with current := v } = .next { s with responses := s.responses ++ [.nothing] }

/-! ### The bit reflector -/

/-- `reflect_byte` (40_bit_reflector R131): bit 0 becomes bit `len-1`, the bits at or above `len` are ignored, and the result
has `len` bits; 0 and all ones are fixed. -/
def Obligations.ReflectByteReverses : Prop :=
  ∀ (b len : Nat), b < 256 → 1 ≤ len → len ≤ 8 →
    (∀ k, k < len → (reflectByte b len).testBit (len - 1 - k) = b.testBit k) ∧
    reflectByte b len < 2 ^ len ∧ reflectByte b len = reflectByte (b % 2 ^ len) len ∧
    reflectByte 0 len = 0 ∧ reflectByte (2 ^ len - 1) len = 2 ^ len - 1 ∧
    (len = 1 → reflectByte b len = b % 2)

/-- `reflect_register` (40_bit_reflector R132): the exact `W`-bit reversal; the identity at `W = 1`; 0 and `MASK` are fixed. -/
def Obligations.ReflectRegisterReverses : Prop :=
  ∀ (w v : Nat), 1 ≤ w → v < 2 ^ w →
    (∀ k, k < w → (reflectRegister w v).testBit (w - 1 - k) = v.testBit k) ∧
    reflectRegister w v < 2 ^ w ∧ (w = 1 → reflectRegister w v = v) ∧
    reflectRegister w 0 = 0 ∧ reflectRegister w (2 ^ w - 1) = 2 ^ w - 1

/-- The reversal equals the byte-wise composition (40_bit_reflector R133), at every width, the partial byte included. -/
def Obligations.ReflectRegisterIsBytewise : Prop :=
  ∀ (w v : Nat), 1 ≤ w → v < 2 ^ w → reflectRegister w v = reflectRegisterBytewise w v

/-- Both functions are involutions (40_bit_reflector R134). -/
def Obligations.ReflectionIsInvolution : Prop :=
  (∀ (w v : Nat), 1 ≤ w → v < 2 ^ w → reflectRegister w (reflectRegister w v) = v) ∧
  (∀ (b len : Nat), 1 ≤ len → len ≤ 8 → b < 2 ^ len → reflectByte (reflectByte b len) len = b)

/-- Both functions are linear over XOR (40_bit_reflector R136). -/
def Obligations.ReflectionIsLinear : Prop :=
  (∀ w a b : Nat, reflectRegister w (a ^^^ b) = reflectRegister w a ^^^ reflectRegister w b) ∧
  (∀ len a b : Nat, reflectByte (a ^^^ b) len = reflectByte a len ^^^ reflectByte b len)

/-! ### The table -/

/-- BUILD_BASE (41_table_generator R151): 256 entries, entry 0 is 0, entry 1 is `POLY`, each power of two follows from the one
before by the shift-and-XOR step, and `base[i + j] = base[i] XOR base[j]` for a power of two `i` and `j < i`. -/
def Obligations.BaseTableByDoubling : Prop :=
  ∀ (w poly : Nat), 1 ≤ w → poly < 2 ^ w →
    (buildBase w poly).length = 256 ∧ (buildBase w poly)[0]? = some 0 ∧ (buildBase w poly)[1]? = some poly ∧
    (∀ k, k < 7 → ∃ e, (buildBase w poly)[2 ^ k]? = some e ∧
      (buildBase w poly)[2 ^ (k + 1)]? =
        some ((if e.testBit (w - 1) then (e <<< 1) ^^^ poly else e <<< 1) % 2 ^ w)) ∧
    (∀ k j, k < 8 → j < 2 ^ k → ∃ a b, (buildBase w poly)[2 ^ k]? = some a ∧ (buildBase w poly)[j]? = some b ∧
      (buildBase w poly)[2 ^ k + j]? = some (a ^^^ b))

/-- The engine's table (41_table_generator R152, R153): with `REFIN`, entry `i` is the reflection of the base entry at the
reflected index, so that entry 0x80 is the reflected polynomial; without, it is the base table. -/
def Obligations.ReflectedTable : Prop :=
  ∀ cfg : Config, legalConfig cfg →
    (cfg.refin = false → buildTable cfg = buildBase cfg.width cfg.poly) ∧
    (cfg.refin = true →
      (∀ i, i < 256 → ∃ e, (buildBase cfg.width cfg.poly)[reflectByte i 8]? = some e ∧
        (buildTable cfg)[i]? = some (reflectRegister cfg.width e)) ∧
      (buildTable cfg)[0]? = some 0 ∧
      (buildTable cfg)[0x80]? = some (reflectRegister cfg.width cfg.poly))

/-- The table has exactly 256 entries, each a `W`-bit value, and entry 0 is 0 (41_table_generator R154). -/
def Obligations.TableShape : Prop :=
  ∀ cfg : Config, legalConfig cfg →
    (buildTable cfg).length = 256 ∧ (∀ e ∈ buildTable cfg, e < 2 ^ cfg.width) ∧ (buildTable cfg)[0]? = some 0

/-- Both tables are linear over XOR (41_table_generator R156). -/
def Obligations.TableIsLinear : Prop :=
  ∀ cfg : Config, legalConfig cfg → ∀ a b : Nat, a < 256 → b < 256 →
    (∃ x y, (buildBase cfg.width cfg.poly)[a]? = some x ∧ (buildBase cfg.width cfg.poly)[b]? = some y ∧
      (buildBase cfg.width cfg.poly)[a ^^^ b]? = some (x ^^^ y)) ∧
    (∃ x y, (buildTable cfg)[a]? = some x ∧ (buildTable cfg)[b]? = some y ∧ (buildTable cfg)[a ^^^ b]? = some (x ^^^ y))

/-- Every base entry is the register reached by shifting the byte, most significant bit first, into a register that starts at
0, and every reflected entry is the reflection of that for the reflected byte (41_table_generator R155). -/
def Obligations.TableEntryIsSerialRegister : Prop :=
  ∀ (w poly i : Nat), 1 ≤ w → poly < 2 ^ w → i < 256 →
    (buildBase w poly)[i]? = some (serialByte w poly 0 i) ∧
    (buildReflected w (buildBase w poly))[i]? = some (reflectRegister w (serialByte w poly 0 (reflectByte i 8)))

/-- Every base entry is `(i(x) * x^W) mod P(x)` over GF(2), with `P(x) = x^W + POLY(x)` (41_table_generator R155, 00_scope R11). -/
def Obligations.TableEntryIsPolynomialRemainder : Prop :=
  ∀ (w poly i : Nat), 1 ≤ w → poly < 2 ^ w → i < 256 → ∃ e, (buildBase w poly)[i]? = some e ∧
    bitPolynomial e =
      (bitPolynomial i * Polynomial.X ^ w) %ₘ (Polynomial.X ^ w + bitPolynomial poly)

/-- The corner configurations (41_table_generator R158): `POLY = 0` gives zeros, `W = 1` gives the parity of the index times
`POLY`, and with `W >= 8` and an odd `POLY` the 256 entries are pairwise distinct. -/
def Obligations.TableCorners : Prop :=
  (∀ w, 1 ≤ w → ∀ e ∈ buildBase w 0, e = 0) ∧
  (∀ w, 1 ≤ w → ∀ e ∈ buildReflected w (buildBase w 0), e = 0) ∧
  (∀ poly i, poly < 2 → i < 256 →
    (buildBase 1 poly)[i]? = some (poly * (((List.range 8).filter (fun k => i.testBit k)).length % 2))) ∧
  (∀ cfg : Config, legalConfig cfg → 8 ≤ cfg.width → cfg.poly % 2 = 1 →
    (buildBase cfg.width cfg.poly).Nodup ∧ (buildTable cfg).Nodup)

/-! ### The update, the fold, finalization -/

/-- Every path's index lies in 0..255 for a `W`-bit register (42_register_update R178). -/
def Obligations.TableIndexInRange : Prop :=
  ∀ (w c : Nat) (b : Byte), c < 2 ^ w →
    indexReflected c b ≤ 255 ∧ (1 ≤ w → w < 8 → indexNarrow w c b ≤ 255) ∧ (8 ≤ w → indexWide w c b ≤ 255)

/-- The update's paths at the widths where a term drops out, and its width (42_register_update R171-R174): for `W <= 8` the result
is the table entry alone, and the reflected path's mask is redundant. -/
def Obligations.UpdatePathCorners : Prop :=
  ∀ (cfg : Config) (c : Nat) (b : Byte), legalConfig cfg → c < 2 ^ cfg.width →
    update cfg (buildTable cfg) c b < 2 ^ cfg.width ∧
    (cfg.refin = true → update cfg (buildTable cfg) c b =
      (c >>> 8) ^^^ tableRead (buildTable cfg) (b.toNat ^^^ (c % 256))) ∧
    (cfg.refin = true → cfg.width ≤ 8 →
      update cfg (buildTable cfg) c b = tableRead (buildTable cfg) (b.toNat ^^^ c)) ∧
    (cfg.refin = false → cfg.width < 8 →
      update cfg (buildTable cfg) c b = tableRead (buildTable cfg) (b.toNat ^^^ (c * 2 ^ (8 - cfg.width)))) ∧
    (cfg.refin = false → cfg.width = 8 →
      update cfg (buildTable cfg) c b = tableRead (buildTable cfg) (b.toNat ^^^ c)) ∧
    (cfg.refin = false → 8 ≤ cfg.width → update cfg (buildTable cfg) c b =
      ((c * 256) ^^^ tableRead (buildTable cfg) (b.toNat ^^^ (c / 2 ^ (cfg.width - 8)))) % 2 ^ cfg.width)

/-- A fold over `n` bytes reads the table exactly `n` times, always inside its 256 entries (20_memory R64, 70_reset_and_hazards
R282, 60_exceptions R254), and leaves a `W`-bit value. -/
def Obligations.FoldReadsOncePerByte : Prop :=
  ∀ (cfg : Config) (table : List Nat) (c : Nat) (s : List Byte), legalConfig cfg → c < 2 ^ cfg.width →
    (foldReads cfg table c s).length = s.length ∧ (∀ i ∈ foldReads cfg table c s, i < 256) ∧
    fold cfg table c s < 2 ^ cfg.width

/-- `fold(c, A ++ B) = fold(fold(c, A), B)` (42_register_update R177). -/
def Obligations.FoldOverConcatenation : Prop :=
  ∀ (cfg : Config) (table : List Nat) (c : Nat) (a b : List Byte),
    fold cfg table c (a ++ b) = fold cfg table (fold cfg table c a) b

/-- FINALIZE is a bijection on `W`-bit values with inverse `unfinalize` (42_register_update R180). -/
def Obligations.FinalizeIsBijection : Prop :=
  ∀ (cfg : Config) (c : Nat), legalConfig cfg → c < 2 ^ cfg.width →
    finalize cfg c < 2 ^ cfg.width ∧ unfinalize cfg c < 2 ^ cfg.width ∧
    finalize cfg (unfinalize cfg c) = c ∧ unfinalize cfg (finalize cfg c) = c

/-- The table-driven datapath equals the bit-serial CRC, at every width (42_register_update R179). -/
def Obligations.TableDrivenEqualsBitSerial : Prop :=
  ∀ (cfg : Config) (c : Nat) (s : List Byte), legalConfig cfg → c < 2 ^ cfg.width →
    (cfg.refin = false →
      fold cfg (buildTable cfg) c s = bitfold cfg.width cfg.poly c (s.map (fun b => b.toNat))) ∧
    (cfg.refin = true →
      fold cfg (buildTable cfg) c s = reflectRegister cfg.width
        (bitfold cfg.width cfg.poly (reflectRegister cfg.width c) (s.map (fun b => reflectByte b.toNat 8)))) ∧
    finalize cfg (fold cfg (buildTable cfg) (correctedInitial cfg) s) = serialChecksum cfg s

/-! ### Whole-machine equivalences -/

/-- The machine refines the bit-serial CRC: CSTATIC on an engine that exists answers the bit-serial checksum of its stream
(42_register_update R179, 43_engine R194). -/
def Obligations.CstaticAnswersBitSerialChecksum : Prop :=
  ∀ (s : State) (d : Framing) (bytes : List Byte),
    EngineInv s → s.fault = none → s.frame d = .ok bytes →
    exec (.cstatic d) s = .next { s with responses := s.responses ++ [.value (serialChecksum s.cfg bytes)] }

/-- One-shot equals streaming (43_engine R211): CSTATIC answers what COMPUTE answers after RESET, from any state. -/
def Obligations.OneShotEqualsStreaming : Prop :=
  ∀ (s : State) (d : Framing) (bytes : List Byte), s.fault = none → s.frame d = .ok bytes →
    ∃ (t u : State) (v : Nat), exec .reset s = .next t ∧ exec (.compute d) t = .next u ∧
      u.responses = t.responses ++ [.value v] ∧
      exec (.cstatic d) s = .next { s with responses := s.responses ++ [.value v] }

/-- Incremental equivalence (43_engine R212): from `CI`, COMPUTE over A and then over B answers on its second response the
checksum of A ++ B, which is CSTATIC's. Empty parts are covered. -/
def Obligations.IncrementalEquivalence : Prop :=
  ∀ (s : State) (da db dab : Framing) (a b : List Byte),
    s.fault = none → s.current = correctedInitial s.cfg →
    s.frame da = .ok a → s.frame db = .ok b → s.frame dab = .ok (a ++ b) →
    ∃ t u : State, exec (.compute da) s = .next t ∧ exec (.compute db) t = .next u ∧
      u.responses = t.responses ++
        [.value (finalize s.cfg (fold s.cfg s.table (correctedInitial s.cfg) (a ++ b)))] ∧
      exec (.cstatic dab) s = .next { s with responses := s.responses ++
        [.value (finalize s.cfg (fold s.cfg s.table (correctedInitial s.cfg) (a ++ b)))] }

/-- Reset idempotence (70_reset_and_hazards R273, 90_conflicts C3): after RESET a COMPUTE over the empty stream answers
`(if REFOUT then reflect_register(INIT) else INIT) XOR XOROUT`, whatever `REFIN` is; repeating RESET gives the same state. -/
def Obligations.EmptyStreamAfterReset : Prop :=
  ∀ (s : State) (d : Framing), legalConfig s.cfg → s.fault = none → s.frame d = .ok [] →
    ∃ t u : State, exec .reset s = .next t ∧
      exec .reset t = .next { t with responses := t.responses ++ [.nothing] } ∧
      exec (.compute d) t = .next u ∧
      u.responses = t.responses ++
        [.value ((if s.cfg.refout then reflectRegister s.cfg.width s.cfg.init else s.cfg.init) ^^^ s.cfg.xorout)]

/-- Resuming (70_reset_and_hazards R277): SET of `unfinalize(v)`, for the `v` a COMPUTE answered, restores in any engine of the same
configuration the register that COMPUTE left. -/
def Obligations.ResumeFromReportedChecksum : Prop :=
  ∀ (s t u : State) (d : Framing) (v : Nat),
    EngineInv s → exec (.compute d) s = .next t → t.responses = s.responses ++ [.value v] →
    u.cfg = s.cfg → u.fault = none →
    exec (.set (unfinalize s.cfg v)) u =
      .next { u with current := t.current, responses := u.responses ++ [.nothing] }

/-- A run of a finite list of host actions ends (43_engine R213): after at most as many steps either every action has been
carried out without a fault, or the engine is faulted and has no further step; each command that ran gave one response. -/
def Obligations.RunsEnd : Prop :=
  ∀ s : State, s.fault = none → ∃ (n : Nat) (t : State), n ≤ s.inputs.length ∧ runFor n s = .next t ∧
    t.responses.length = s.responses.length + commandCount (s.inputs.take n) ∧
    ((t.endsNormally ∧ n = s.inputs.length) ∨ (∃ f, t.fault = some f ∧ step t = .fault (.engineFaulted f)))
end

