-- ==== Sys2Proof/Laws/State.lean ====
section
/-! SUPPORT. What each named update of the state changes and what it leaves alone, field by field, so that no proof unfolds
a record update. -/

namespace Sys2Proof.Machine

@[simp] theorem State.setCurrent_cfg (s : State) (v : Nat) : (s.setCurrent v).cfg = s.cfg := rfl
@[simp] theorem State.setCurrent_table (s : State) (v : Nat) : (s.setCurrent v).table = s.table := rfl
@[simp] theorem State.setCurrent_check (s : State) (v : Nat) : (s.setCurrent v).check = s.check := rfl
@[simp] theorem State.setCurrent_current (s : State) (v : Nat) : (s.setCurrent v).current = v := rfl
@[simp] theorem State.setCurrent_fault (s : State) (v : Nat) : (s.setCurrent v).fault = s.fault := rfl
@[simp] theorem State.setCurrent_memory (s : State) (v : Nat) : (s.setCurrent v).memory = s.memory := rfl
@[simp] theorem State.setCurrent_inputs (s : State) (v : Nat) : (s.setCurrent v).inputs = s.inputs := rfl
@[simp] theorem State.setCurrent_responses (s : State) (v : Nat) : (s.setCurrent v).responses = s.responses := rfl

@[simp] theorem State.respond_cfg (s : State) (r : Response) : (s.respond r).cfg = s.cfg := rfl
@[simp] theorem State.respond_table (s : State) (r : Response) : (s.respond r).table = s.table := rfl
@[simp] theorem State.respond_check (s : State) (r : Response) : (s.respond r).check = s.check := rfl
@[simp] theorem State.respond_current (s : State) (r : Response) : (s.respond r).current = s.current := rfl
@[simp] theorem State.respond_fault (s : State) (r : Response) : (s.respond r).fault = s.fault := rfl
@[simp] theorem State.respond_memory (s : State) (r : Response) : (s.respond r).memory = s.memory := rfl
@[simp] theorem State.respond_inputs (s : State) (r : Response) : (s.respond r).inputs = s.inputs := rfl
@[simp] theorem State.respond_responses (s : State) (r : Response) :
    (s.respond r).responses = s.responses ++ [r] := rfl

@[simp] theorem State.raise_cfg (s : State) (f : FaultRecord) : (s.raise f).cfg = s.cfg := rfl
@[simp] theorem State.raise_table (s : State) (f : FaultRecord) : (s.raise f).table = s.table := rfl
@[simp] theorem State.raise_check (s : State) (f : FaultRecord) : (s.raise f).check = s.check := rfl
@[simp] theorem State.raise_current (s : State) (f : FaultRecord) : (s.raise f).current = s.current := rfl
@[simp] theorem State.raise_fault (s : State) (f : FaultRecord) : (s.raise f).fault = some f := rfl
@[simp] theorem State.raise_memory (s : State) (f : FaultRecord) : (s.raise f).memory = s.memory := rfl
@[simp] theorem State.raise_inputs (s : State) (f : FaultRecord) : (s.raise f).inputs = s.inputs := rfl
@[simp] theorem State.raise_responses (s : State) (f : FaultRecord) :
    (s.raise f).responses = s.responses ++ [.error f.code] := rfl

@[simp] theorem State.supply_cfg (s : State) (n : Nat) (b : List Byte) : (s.supply n b).cfg = s.cfg := rfl
@[simp] theorem State.supply_table (s : State) (n : Nat) (b : List Byte) : (s.supply n b).table = s.table := rfl
@[simp] theorem State.supply_check (s : State) (n : Nat) (b : List Byte) : (s.supply n b).check = s.check := rfl
@[simp] theorem State.supply_current (s : State) (n : Nat) (b : List Byte) : (s.supply n b).current = s.current := rfl
@[simp] theorem State.supply_fault (s : State) (n : Nat) (b : List Byte) : (s.supply n b).fault = s.fault := rfl
@[simp] theorem State.supply_memory (s : State) (n : Nat) (b : List Byte) :
    (s.supply n b).memory = s.memory.write n b := rfl
@[simp] theorem State.supply_inputs (s : State) (n : Nat) (b : List Byte) : (s.supply n b).inputs = s.inputs := rfl
@[simp] theorem State.supply_responses (s : State) (n : Nat) (b : List Byte) :
    (s.supply n b).responses = s.responses := rfl

@[simp] theorem State.withInputs_cfg (s : State) (l : List HostAction) : (s.withInputs l).cfg = s.cfg := rfl
@[simp] theorem State.withInputs_table (s : State) (l : List HostAction) : (s.withInputs l).table = s.table := rfl
@[simp] theorem State.withInputs_check (s : State) (l : List HostAction) : (s.withInputs l).check = s.check := rfl
@[simp] theorem State.withInputs_current (s : State) (l : List HostAction) : (s.withInputs l).current = s.current := rfl
@[simp] theorem State.withInputs_fault (s : State) (l : List HostAction) : (s.withInputs l).fault = s.fault := rfl
@[simp] theorem State.withInputs_memory (s : State) (l : List HostAction) : (s.withInputs l).memory = s.memory := rfl
@[simp] theorem State.withInputs_inputs (s : State) (l : List HostAction) : (s.withInputs l).inputs = l := rfl
@[simp] theorem State.withInputs_responses (s : State) (l : List HostAction) :
    (s.withInputs l).responses = s.responses := rfl

/-- Writing the value `current` already holds changes nothing. -/
@[simp] theorem State.setCurrent_self (s : State) : s.setCurrent s.current = s := rfl

/-- A container a command names is read from the host's containers alone. -/
theorem State.container_of_memory {s t : State} (h : t.memory = s.memory) (c : Container) :
    t.container c = s.container c := by
  cases c <;> simp [State.container, h]

/-- A byte of host memory is read from the host's containers alone. -/
theorem State.memRead_of_memory {s t : State} (h : t.memory = s.memory) (c : Container) (p : Nat) :
    t.memRead c p = s.memRead c p := by
  simp [State.memRead, State.container_of_memory h]

end Sys2Proof.Machine
end

