-- ==== Sys2Proof/Laws/Ops.lean ====
section
/-! SUPPORT. What each shared operation can do, said once: the host's containers keep their canonical form, a command that
ends, and framing. -/

namespace Sys2Proof.Machine

/-- A step of a command ends in a next state exactly when the engine holds no fault. -/
theorem State.stepTo_eq_next {s t u : State} : s.stepTo t = .next u ↔ s.fault = none ∧ t = u := by
  unfold State.stepTo
  cases h : s.fault <;> simp

/-- A command of an engine without a fault ends where its rule says. -/
theorem State.stepTo_of_unfaulted {s : State} (h : s.fault = none) (t : State) : s.stepTo t = .next t :=
  State.stepTo_eq_next.2 ⟨h, rfl⟩

/-- A command of a faulted engine has no step. -/
theorem State.stepTo_of_faulted {s : State} {f : FaultRecord} (h : s.fault = some f) (t : State) :
    s.stepTo t = .fault (.engineFaulted f) := by
  simp [State.stepTo, h]

/-- Reading a container after an entry was put in front. -/
theorem Memory.read_entry (n : Nat) (bytes : List Byte) (rest : Memory) (k : Nat)
    (h : ∀ e ∈ rest, n < e.1) :
    (Memory.entry n bytes rest).read k = if k = n then bytes else rest.read k := by
  cases bytes with
  | cons b bs => simp [Memory.entry, Memory.read]
  | nil =>
    by_cases hk : k = n
    · subst hk
      have : ∀ m : Memory, (∀ e ∈ m, k < e.1) → m.read k = [] := by
        intro m
        induction m with
        | nil => intro _; rfl
        | cons e m ih =>
          intro hm
          have he := hm e (by simp)
          simp [Memory.read, ih (fun e he => hm e (by simp [he])), Nat.ne_of_lt he]
      simp [Memory.entry, this rest h]
    · simp [Memory.entry, hk]

/-- Reading a container after a write: the bytes written there, and every other container as before. -/
theorem Memory.read_write {m : Memory} (h : m.wf) (n : Nat) (bytes : List Byte) (k : Nat) :
    (m.write n bytes).read k = if k = n then bytes else m.read k := by
  induction m with
  | nil => exact Memory.read_entry n bytes [] k (by simp)
  | cons e rest ih =>
    obtain ⟨m, c⟩ := e
    have hp := List.pairwise_cons.1 h.1
    have hrest : Memory.wf rest := ⟨hp.2, fun e he => h.2 e (by simp [he])⟩
    simp only [Memory.write]
    split
    · next hlt =>
      refine Memory.read_entry n bytes _ k ?_
      rintro e he
      rcases List.mem_cons.1 he with rfl | he
      · exact hlt
      · exact hlt.trans (hp.1 e he)
    · split
      · next heq =>
        subst heq
        rw [Memory.read_entry n bytes rest k hp.1]
        by_cases hk : k = n <;> simp [Memory.read, hk]
      · next hne =>
        simp only [Memory.read]
        by_cases hk : k = m
        · subst hk
          simp [Ne.symm hne]
        · simp [hk, ih hrest]

/-- Every container number after a write is the one written or one that was there. -/
theorem Memory.mem_write {m : Memory} {n : Nat} {bytes : List Byte} {e : Nat × List Byte}
    (h : e ∈ m.write n bytes) : e.1 = n ∨ e ∈ m := by
  have entry : ∀ rest : Memory, e ∈ Memory.entry n bytes rest → e.1 = n ∨ e ∈ rest := by
    intro rest he
    cases bytes with
    | nil => exact .inr he
    | cons b bs =>
      rcases List.mem_cons.1 he with rfl | he
      · exact .inl rfl
      · exact .inr he
  induction m with
  | nil => exact entry [] h
  | cons a rest ih =>
    obtain ⟨m, c⟩ := a
    simp only [Memory.write] at h
    split at h
    · exact entry _ h
    · split at h
      · rcases entry _ h with h | h
        · exact .inl h
        · exact .inr (by simp [h])
      · rcases List.mem_cons.1 h with rfl | h
        · exact .inr (by simp)
        · rcases ih h with h | h
          · exact .inl h
          · exact .inr (by simp [h])

/-- Putting an entry in front of larger numbers keeps the canonical form. -/
theorem Memory.wf_entry {n : Nat} {bytes : List Byte} {rest : Memory} (h : Memory.wf rest)
    (hn : ∀ e ∈ rest, n < e.1) : (Memory.entry n bytes rest).wf := by
  cases bytes with
  | nil => exact h
  | cons b bs =>
    refine ⟨List.pairwise_cons.2 ⟨hn, h.1⟩, ?_⟩
    intro e he
    rcases List.mem_cons.1 he with rfl | he
    · simp
    · exact h.2 e he

/-- A write keeps the canonical form of the host's containers. -/
theorem Memory.wf_write {m : Memory} (h : m.wf) (n : Nat) (bytes : List Byte) : (m.write n bytes).wf := by
  induction m with
  | nil => exact Memory.wf_entry h (by simp)
  | cons e rest ih =>
    obtain ⟨m, c⟩ := e
    have hp := List.pairwise_cons.1 h.1
    have hrest : Memory.wf rest := ⟨hp.2, fun e he => h.2 e (by simp [he])⟩
    simp only [Memory.write]
    split
    · next hlt =>
      refine Memory.wf_entry h ?_
      rintro e he
      rcases List.mem_cons.1 he with rfl | he
      · exact hlt
      · exact hlt.trans (hp.1 e he)
    · split
      · next heq => subst heq; exact Memory.wf_entry hrest hp.1
      · next hnlt hne =>
        have ih := ih hrest
        refine ⟨List.pairwise_cons.2 ⟨?_, ih.1⟩, ?_⟩
        · intro e he
          rcases Memory.mem_write he with he | he
          · have : m ≠ n := fun hmn => hne hmn.symm
            simp only [he]
            omega
          · exact hp.1 e he
        · intro e he
          rcases List.mem_cons.1 he with rfl | he
          · exact h.2 (m, c) (by simp)
          · exact ih.2 e he

/-- What framing a range can answer: one of the two contract violations, or the bytes of the range. -/
theorem frameRange_cases (bytes : List Byte) (start stop : Nat) :
    (start > stop ∧ frameRange bytes start stop = .error ⟨.rangeOrder, start⟩) ∨
    (start ≤ stop ∧ stop > bytes.length ∧ frameRange bytes start stop = .error ⟨.rangeBounds, stop⟩) ∨
    (start ≤ stop ∧ stop ≤ bytes.length ∧
      frameRange bytes start stop = .ok ((bytes.drop start).take (stop - start))) := by
  unfold frameRange
  split
  · next h => exact .inl ⟨h, rfl⟩
  · next h =>
    split
    · next h' => exact .inr (.inl ⟨by omega, h', rfl⟩)
    · next h' => exact .inr (.inr ⟨by omega, by omega, rfl⟩)

/-- A framing that faults is one of the two contract violations of framing. -/
theorem State.frame_error {s : State} {d : Framing} {f : FaultRecord} (h : s.frame d = .error f) :
    f.code = .rangeOrder ∨ f.code = .rangeBounds := by
  have range : ∀ (bytes : List Byte) (a b : Nat), frameRange bytes a b = .error f →
      f.code = .rangeOrder ∨ f.code = .rangeBounds := by
    intro bytes a b h
    rcases frameRange_cases bytes a b with ⟨_, e⟩ | ⟨_, _, e⟩ | ⟨_, _, e⟩ <;> rw [e] at h <;> cases h <;> simp
  cases d with
  | whole c => exact range _ _ _ h
  | range c a b => exact range _ _ _ h
  | offset c off =>
    simp only [State.frame, frameOffset] at h
    split at h
    · cases h; simp
    · exact range _ _ _ h
  | offlen c off n =>
    simp only [State.frame, frameOfflen] at h
    split at h
    · cases h; simp
    · exact range _ _ _ h

/-- Framing reads the host's containers and nothing else of the state. -/
theorem State.frame_of_memory {s t : State} (h : t.memory = s.memory) (d : Framing) : t.frame d = s.frame d := by
  cases d <;> simp [State.frame, State.container_of_memory h]

/-- A table read inside the table is the entry there. -/
theorem tableRead_of_lt {table : List Nat} {i : Nat} (h : i < table.length) : tableRead table i = table[i] := by
  simp [tableRead, h]

/-- A masked value has `W` bits. -/
theorem maskTo_lt (w v : Nat) : maskTo w v < 2 ^ w :=
  Nat.mod_lt _ (Nat.two_pow_pos w)

end Sys2Proof.Machine
end

