-- ==== Sys2Proof/Laws/Exec.lean ====
section
/-! SUPPORT. What a command and a step can do, said once: the inversion lemmas every invariant is derived from. -/

namespace Sys2Proof.Machine

/-- A command that ends in a next state either takes a fault, or writes `current` (only RESET, SET and COMPUTE do, and how)
and answers with one response. -/
inductive ExecEffect (s : State) : Instr → State → Prop where
  | setRange (v : Nat) (h : allOnes s.cfg.width < v) : ExecEffect s (.set v) (s.raise ⟨.setRange, v⟩)
  | computeFault (d : Framing) (f : FaultRecord) (h : s.frame d = .error f) : ExecEffect s (.compute d) (s.raise f)
  | cstaticFault (d : Framing) (f : FaultRecord) (h : s.frame d = .error f) : ExecEffect s (.cstatic d) (s.raise f)
  | checkFault (h : s.cfg.selftest = false) : ExecEffect s .rdparCheck (s.raise ⟨.noSelftest, 0x6006⟩)
  | expectedFault (h : s.cfg.selftest = false) : ExecEffect s .rdparExpected (s.raise ⟨.noSelftest, 0x6007⟩)
  | reset : ExecEffect s .reset ((s.setCurrent (correctedInitial s.cfg)).respond .nothing)
  | set (v : Nat) (h : v ≤ allOnes s.cfg.width) : ExecEffect s (.set v) ((s.setCurrent v).respond .nothing)
  | compute (d : Framing) (bytes : List Byte) (h : s.frame d = .ok bytes) :
      ExecEffect s (.compute d) ((s.setCurrent (fold s.cfg s.table s.current bytes)).respond
        (.value (finalize s.cfg (fold s.cfg s.table s.current bytes))))
  | cstatic (d : Framing) (bytes : List Byte) (h : s.frame d = .ok bytes) :
      ExecEffect s (.cstatic d)
        (s.respond (.value (finalize s.cfg (fold s.cfg s.table (correctedInitial s.cfg) bytes))))
  | rdtab (idx : BitVec 8) : ExecEffect s (.rdtab idx) (s.respond (.value (tableRead s.table idx.toNat)))
  | width : ExecEffect s .rdparWidth (s.respond (.value s.cfg.width))
  | poly : ExecEffect s .rdparPoly (s.respond (.value s.cfg.poly))
  | init : ExecEffect s .rdparInit (s.respond (.value s.cfg.init))
  | xorout : ExecEffect s .rdparXorout (s.respond (.value s.cfg.xorout))
  | refin : ExecEffect s .rdparRefin (s.respond (.value (flagValue s.cfg.refin)))
  | refout : ExecEffect s .rdparRefout (s.respond (.value (flagValue s.cfg.refout)))
  | check (h : s.cfg.selftest = true) : ExecEffect s .rdparCheck (s.respond (.value s.check))
  | expected (h : s.cfg.selftest = true) : ExecEffect s .rdparExpected (s.respond (.value s.cfg.expectedCheck))

/-- A command of an engine without a fault has the effect of its rule. -/
theorem exec_effect {i : Instr} {s t : State} (h : exec i s = .next t) : s.fault = none ∧ ExecEffect s i t := by
  cases i with
  | reset => obtain ⟨hf, rfl⟩ := State.stepTo_eq_next.1 h; exact ⟨hf, .reset⟩
  | set v =>
    simp only [exec, execSet] at h
    split at h
    · next hv => obtain ⟨hf, rfl⟩ := State.stepTo_eq_next.1 h; exact ⟨hf, .setRange v hv⟩
    · next hv => obtain ⟨hf, rfl⟩ := State.stepTo_eq_next.1 h; exact ⟨hf, .set v (by omega)⟩
  | compute d =>
    simp only [exec, execCompute] at h
    split at h
    · next f hd => obtain ⟨hf, rfl⟩ := State.stepTo_eq_next.1 h; exact ⟨hf, .computeFault d f hd⟩
    · next bytes hd => obtain ⟨hf, rfl⟩ := State.stepTo_eq_next.1 h; exact ⟨hf, .compute d bytes hd⟩
  | cstatic d =>
    simp only [exec, execCstatic, State.answer] at h
    split at h
    · next f hd => obtain ⟨hf, rfl⟩ := State.stepTo_eq_next.1 h; exact ⟨hf, .cstaticFault d f hd⟩
    · next bytes hd => obtain ⟨hf, rfl⟩ := State.stepTo_eq_next.1 h; exact ⟨hf, .cstatic d bytes hd⟩
  | rdtab idx => obtain ⟨hf, rfl⟩ := State.stepTo_eq_next.1 h; exact ⟨hf, .rdtab idx⟩
  | rdparWidth => obtain ⟨hf, rfl⟩ := State.stepTo_eq_next.1 h; exact ⟨hf, .width⟩
  | rdparPoly => obtain ⟨hf, rfl⟩ := State.stepTo_eq_next.1 h; exact ⟨hf, .poly⟩
  | rdparInit => obtain ⟨hf, rfl⟩ := State.stepTo_eq_next.1 h; exact ⟨hf, .init⟩
  | rdparXorout => obtain ⟨hf, rfl⟩ := State.stepTo_eq_next.1 h; exact ⟨hf, .xorout⟩
  | rdparRefin => obtain ⟨hf, rfl⟩ := State.stepTo_eq_next.1 h; exact ⟨hf, .refin⟩
  | rdparRefout => obtain ⟨hf, rfl⟩ := State.stepTo_eq_next.1 h; exact ⟨hf, .refout⟩
  | rdparCheck =>
    simp only [exec, execRdparCheck, State.answerIfSelftest, State.answer] at h
    split at h
    · next hs => obtain ⟨hf, rfl⟩ := State.stepTo_eq_next.1 h; exact ⟨hf, .check hs⟩
    · next hs => obtain ⟨hf, rfl⟩ := State.stepTo_eq_next.1 h; exact ⟨hf, .checkFault (by simpa using hs)⟩
  | rdparExpected =>
    simp only [exec, execRdparExpected, State.answerIfSelftest, State.answer] at h
    split at h
    · next hs => obtain ⟨hf, rfl⟩ := State.stepTo_eq_next.1 h; exact ⟨hf, .expected hs⟩
    · next hs => obtain ⟨hf, rfl⟩ := State.stepTo_eq_next.1 h; exact ⟨hf, .expectedFault (by simpa using hs)⟩

/-- What a step that ends in a next state has done: nothing, a container changed, a command executed, or an illegal word. -/
inductive StepEffect (s : State) : State → Prop where
  | idle (h : s.inputs = []) : StepEffect s s
  | supply (n : Nat) (bytes : List Byte) (rest : List HostAction) (h : s.inputs = .supply n bytes :: rest) :
      StepEffect s ((s.withInputs rest).supply n bytes)
  | command (c : Command) (rest : List HostAction) (i : Instr) (t : State) (h : s.inputs = .issue c :: rest)
      (hd : decode c = .command i) (he : ExecEffect (s.withInputs rest) i t) : StepEffect s t
  | illegal (c : Command) (rest : List HostAction) (why : IllegalCause) (word : CmdWord)
      (h : s.inputs = .issue c :: rest) (hd : decode c = .illegal why word) :
      StepEffect s ((s.withInputs rest).raise ⟨.illegalWord, word.toNat⟩)

/-- A step has one of these effects, on an engine without a fault. -/
theorem step_effect {s t : State} (h : step s = .next t) : s.fault = none ∧ StepEffect s t := by
  unfold step advance at h
  split at h
  · next hin => obtain ⟨hf, rfl⟩ := State.stepTo_eq_next.1 h; exact ⟨hf, .idle hin⟩
  · next a rest hin =>
    cases a with
    | supply n bytes =>
      obtain ⟨hf, rfl⟩ := State.stepTo_eq_next.1 h
      exact ⟨hf, .supply n bytes rest hin⟩
    | issue c =>
      simp only [hostStep, issueCommand] at h
      split at h
      · next i hd =>
        obtain ⟨hf, he⟩ := exec_effect h
        exact ⟨hf, .command c rest i t hin hd he⟩
      · next why word hd =>
        obtain ⟨hf, rfl⟩ := State.stepTo_eq_next.1 h
        exact ⟨hf, .illegal c rest why word hin hd⟩

end Sys2Proof.Machine
end

