-- ==== Sys2Proof/Laws/PerInstr.lean ====
section
/-! SUPPORT. A statement about every command as syntax, made per constructor: the word a command encodes to is of its own
row of the opcode table, by mask, pattern and mnemonic. -/

namespace Sys2Proof.Laws.OwnRow

/-- The encoded word matches a row of the table that has the command's mnemonic (30_encoding R96). -/
def Statement (i : Instr) : Prop :=
  ∃ row ∈ opcodeTable, row.mnemonic = mnemonic i ∧ encodeWord i &&& row.mask = row.pattern

theorem reset : Statement .reset := ⟨⟨"RESET", 0xFFFF#16, 0x1000#16⟩, by decide, rfl, by decide⟩
theorem set (v : Nat) : Statement (.set v) :=
  ⟨⟨"SET", 0xFFFF#16, 0x2000#16⟩, by decide, rfl, (by decide : 0x2000#16 &&& 0xFFFF#16 = 0x2000#16)⟩
theorem compute (d : Framing) : Statement (.compute d) :=
  ⟨⟨"COMPUTE", 0xFFFF#16, 0x3000#16⟩, by decide, rfl, (by decide : 0x3000#16 &&& 0xFFFF#16 = 0x3000#16)⟩
theorem cstatic (d : Framing) : Statement (.cstatic d) :=
  ⟨⟨"CSTATIC", 0xFFFF#16, 0x4000#16⟩, by decide, rfl, (by decide : 0x4000#16 &&& 0xFFFF#16 = 0x4000#16)⟩

/-- The masked word of RDTAB is its pattern whatever the index. -/
theorem rdtab_masked : ∀ idx : BitVec 8, encodeWord (.rdtab idx) &&& 0xFF00#16 = 0x5000#16 := by decide

theorem rdtab (idx : BitVec 8) : Statement (.rdtab idx) :=
  ⟨⟨"RDTAB", 0xFF00#16, 0x5000#16⟩, by decide, rfl, rdtab_masked idx⟩
theorem rdparWidth : Statement .rdparWidth := ⟨⟨"RDPAR.WIDTH", 0xFFFF#16, 0x6000#16⟩, by decide, rfl, by decide⟩
theorem rdparPoly : Statement .rdparPoly := ⟨⟨"RDPAR.POLY", 0xFFFF#16, 0x6001#16⟩, by decide, rfl, by decide⟩
theorem rdparInit : Statement .rdparInit := ⟨⟨"RDPAR.INIT", 0xFFFF#16, 0x6002#16⟩, by decide, rfl, by decide⟩
theorem rdparXorout : Statement .rdparXorout := ⟨⟨"RDPAR.XOROUT", 0xFFFF#16, 0x6003#16⟩, by decide, rfl, by decide⟩
theorem rdparRefin : Statement .rdparRefin := ⟨⟨"RDPAR.REFIN", 0xFFFF#16, 0x6004#16⟩, by decide, rfl, by decide⟩
theorem rdparRefout : Statement .rdparRefout := ⟨⟨"RDPAR.REFOUT", 0xFFFF#16, 0x6005#16⟩, by decide, rfl, by decide⟩
theorem rdparCheck : Statement .rdparCheck := ⟨⟨"RDPAR.CHECK", 0xFFFF#16, 0x6006#16⟩, by decide, rfl, by decide⟩
theorem rdparExpected : Statement .rdparExpected :=
  ⟨⟨"RDPAR.EXPECTED", 0xFFFF#16, 0x6007#16⟩, by decide, rfl, by decide⟩

/-- No two rows of the opcode table share a word: some bit that both fix is fixed to different values. -/
theorem rows_disjoint :
    opcodeTable.Pairwise (fun a b => a.pattern &&& (a.mask &&& b.mask) ≠ b.pattern &&& (a.mask &&& b.mask)) := by
  decide

end Sys2Proof.Laws.OwnRow
end

