-- ==== Sys2Proof/Laws/Reflector.lean ====
section
/-! SUPPORT. The bit reflector's one recursion, bit by bit: later proofs cite `reverseLow_testBit` instead of unfolding it. -/

namespace Sys2Proof.Machine

/-- A reversal of `n` bits has `n` bits. -/
theorem reverseLow_lt (n v : Nat) : reverseLow n v < 2 ^ n := by
  induction n generalizing v with
  | zero => simp [reverseLow]
  | succ n ih =>
    have up : 2 ^ n < 2 ^ (n + 1) := Nat.pow_lt_pow_right (by omega) (by omega)
    refine Nat.or_lt_two_pow ?_ ((ih _).trans up)
    rcases Nat.mod_two_eq_zero_or_one v with h | h <;> simp [h, Nat.shiftLeft_eq, up]

/-- Bit `k` of the reversal is bit `n - 1 - k` of the value. -/
theorem reverseLow_testBit (n v k : Nat) :
    (reverseLow n v).testBit k = (decide (k < n) && v.testBit (n - 1 - k)) := by
  have low : ∀ v k : Nat, (v % 2).testBit k = (decide (k = 0) && v.testBit 0) := by
    intro v k
    have h := Nat.testBit_mod_two_pow v 1 k
    rw [pow_one] at h
    rw [h]
    cases k <;> simp
  induction n generalizing v with
  | zero => simp [reverseLow]
  | succ n ih =>
    simp only [reverseLow, Nat.testBit_or, Nat.testBit_shiftLeft, ih, low]
    rcases lt_trichotomy k n with h | h | h
    · simp [h, show ¬ n ≤ k by omega, ← Nat.testBit_succ, show n - 1 - k + 1 = n - k by omega,
        show k < n + 1 by omega]
    · subst h; simp
    · simp [show ¬ k < n by omega, show ¬ k < n + 1 by omega, show k - n ≠ 0 by omega]

/-- Only the low `n` bits matter. -/
theorem reverseLow_mod (n v : Nat) : reverseLow n (v % 2 ^ n) = reverseLow n v := by
  refine Nat.eq_of_testBit_eq fun k => ?_
  simp only [reverseLow_testBit, Nat.testBit_mod_two_pow]
  by_cases hk : k < n
  · simp [hk, show n - 1 - k < n by omega]
  · simp [hk]

/-- The reversal of 0 is 0. -/
@[simp] theorem reverseLow_zero (n : Nat) : reverseLow n 0 = 0 := by
  refine Nat.eq_of_testBit_eq fun k => ?_
  simp [reverseLow_testBit]

/-- A reflected byte is an index of the table. -/
theorem reflectByte_lt (i : Nat) : reflectByte i 8 < 256 := reverseLow_lt 8 i

/-- A reflected register value has `W` bits. -/
theorem reflectRegister_lt (w v : Nat) : reflectRegister w v < 2 ^ w := reverseLow_lt w v

end Sys2Proof.Machine
end

