-- ==== Sys2Proof/Laws/Register.lean ====
section
/-! SUPPORT. The datapath stays in `W` bits, and a configuration is legal exactly when validation passes. -/

namespace Sys2Proof.Machine

/-- An update leaves `W` bits, whatever the register held and the table holds: every path ends with the mask. -/
theorem update_lt (cfg : Config) (table : List Nat) (c : Nat) (b : Byte) : update cfg table c b < 2 ^ cfg.width := by
  unfold update updateReflected updateNarrow updateWide
  split
  · exact maskTo_lt _ _
  · split <;> exact maskTo_lt _ _

/-- A fold of a `W`-bit value leaves `W` bits. -/
theorem fold_lt (cfg : Config) (table : List Nat) (c : Nat) (s : List Byte) (h : c < 2 ^ cfg.width) :
    fold cfg table c s < 2 ^ cfg.width := by
  induction s generalizing c with
  | nil => exact h
  | cons b s ih => exact ih _ (update_lt _ _ _ _)

/-- The corrected initial value has `W` bits. -/
theorem correctedInitial_lt {cfg : Config} (hl : legalConfig cfg) : correctedInitial cfg < 2 ^ cfg.width := by
  unfold correctedInitial
  split
  · exact reflectRegister_lt _ _
  · exact hl.2.2.2.1

/-- At most `MASK` is below `2^W`. -/
theorem le_allOnes_iff {w v : Nat} : v ≤ allOnes w ↔ v < 2 ^ w := by
  have := Nat.two_pow_pos w
  unfold allOnes
  omega

/-- Validation passes exactly for the legal configurations. -/
theorem validate_eq_none_iff {cfg : Config} : validate cfg = none ↔ legalConfig cfg := by
  unfold validate legalConfig
  repeat' split
  all_goals simp
  all_goals omega

/-- A mask distributes over XOR. -/
theorem xor_mod_two_pow (a b n : Nat) : (a ^^^ b) % 2 ^ n = a % 2 ^ n ^^^ b % 2 ^ n := by
  refine Nat.eq_of_testBit_eq fun k => ?_
  simp only [Nat.testBit_mod_two_pow, Nat.testBit_xor]
  by_cases h : k < n <;> simp [h]

end Sys2Proof.Machine
end

