-- ==== Sys2Proof/Laws/Serial.lean ====
section
/-! SUPPORT. The bit-serial reference is linear over XOR, depends on the bits it is fed alone, and stays in `W` bits. -/

namespace Sys2Proof.Machine

/-- One step is linear in the register and the bit together. -/
theorem serialStep_xor (w p r r' : Nat) (b b' : Bool) :
    serialStep w p (r ^^^ r') (xor b b') = serialStep w p r b ^^^ serialStep w p r' b' := by
  simp only [serialStep, maskTo, Nat.testBit_xor, Nat.shiftLeft_xor_distrib, xor_mod_two_pow]
  cases r.testBit (w - 1) <;> cases r'.testBit (w - 1) <;> cases b <;> cases b' <;>
    simp [Nat.xor_left_comm, Nat.xor_comm]

/-- Feeding `n` bits is linear in the register and the bits together. -/
theorem serialBits_xor (w p n r r' b b' : Nat) :
    serialBits w p (b ^^^ b') n (r ^^^ r') = serialBits w p b n r ^^^ serialBits w p b' n r' := by
  induction n generalizing r r' with
  | zero => rfl
  | succ n ih => simp only [serialBits]; rw [Nat.testBit_xor, serialStep_xor, ih]

/-- Only the low `n` bits are fed. -/
theorem serialBits_congr {w p n b b' : Nat} (r : Nat) (h : ∀ k < n, b.testBit k = b'.testBit k) :
    serialBits w p b n r = serialBits w p b' n r := by
  induction n generalizing r with
  | zero => rfl
  | succ n ih =>
    simp only [serialBits]
    rw [h n (by omega)]
    exact ih _ fun k hk => h k (by omega)

/-- One step leaves `W` bits. -/
theorem serialStep_lt {w p : Nat} (hp : p < 2 ^ w) (r : Nat) (b : Bool) : serialStep w p r b < 2 ^ w := by
  unfold serialStep
  split
  · exact Nat.xor_lt_two_pow (maskTo_lt _ _) hp
  · exact maskTo_lt _ _

/-- Feeding bits into a `W`-bit register leaves `W` bits. -/
theorem serialBits_lt {w p : Nat} (hp : p < 2 ^ w) (b n r : Nat) (hr : r < 2 ^ w) : serialBits w p b n r < 2 ^ w := by
  induction n generalizing r with
  | zero => exact hr
  | succ n ih => exact ih _ (serialStep_lt hp _ _)

/-- A 0 fed into a register of zeros leaves zeros. -/
@[simp] theorem serialStep_zero (w p : Nat) : serialStep w p 0 false = 0 := by simp [serialStep, maskTo]

/-- A 1 fed into a register of zeros leaves the polynomial. -/
@[simp] theorem serialStep_one (w p : Nat) : serialStep w p 0 true = p := by simp [serialStep, maskTo]

/-- A step with a 0 is the builder's shift-and-XOR step. -/
theorem serialStep_false {w p : Nat} (hp : p < 2 ^ w) (r : Nat) :
    serialStep w p r false = maskTo w (if r.testBit (w - 1) then (r <<< 1) ^^^ p else r <<< 1) := by
  simp only [serialStep, maskTo]
  cases r.testBit (w - 1) <;> simp [xor_mod_two_pow, Nat.mod_eq_of_lt hp]

end Sys2Proof.Machine
end

