-- ==== Sys2Proof/Machine/Assembler.lean ====
section
/-! DEFINITION. The assembler syntax of 30_encoding R104: one command a line, `;` starts a comment, numbers decimal or with
`0x`. The conventions R104 leaves open are log entry 17. -/

namespace Sys2Proof.Machine

/-- The pieces of a line. -/
inductive Token where
  /-- A mnemonic, a framing's name, a container's name or a number. -/
  | word (cs : List Char)
  /-- An ASCII string between quotes. -/
  | text (cs : List Char)
  | lparen
  | rparen
  | comma
  | lbracket
  | rbracket
  /-- A string that the line does not close. -/
  | unclosed
deriving DecidableEq, Repr

/-- What a line assembles to. -/
inductive AsmLine where
  /-- Nothing but blanks and a comment. -/
  | blank
  | command (i : Instr)
  /-- Not of the syntax of 30_encoding R104. -/
  | malformed
deriving DecidableEq, Repr

/-- The token of a punctuation character. -/
def punctuation (c : Char) : Option Token :=
  if c = '(' then some .lparen
  else if c = ')' then some .rparen
  else if c = ',' then some .comma
  else if c = '[' then some .lbracket
  else if c = ']' then some .rbracket
  else none

/-- The word gathered so far (last character first), if any, before the tokens that follow. -/
def flushWord (gathered : List Char) (rest : List Token) : List Token :=
  match gathered with
  | [] => rest
  | c :: cs => .word (c :: cs).reverse :: rest

/-- The double quote, which opens and closes a string. -/
def quoteChar : Char := Char.ofNat 34

/-- The tokens of a line. `inText` says that a string is open; `gathered` holds the word or string read so far, last
character first. A `;` outside a string ends the line (30_encoding R104). -/
def lexLine : List Char → (inText : Bool) → (gathered : List Char) → List Token
  | [], true, _ => [.unclosed]
  | [], false, gathered => flushWord gathered []
  | c :: cs, true, gathered =>
    if c = quoteChar then .text gathered.reverse :: lexLine cs false []
    else lexLine cs true (c :: gathered)
  | c :: cs, false, gathered =>
    if c = ';' then flushWord gathered []
    else if c = quoteChar then flushWord gathered (lexLine cs true [])
    else if c = ' ' ∨ c = '\t' then flushWord gathered (lexLine cs false [])
    else
      match punctuation c with
      | some t => flushWord gathered (t :: lexLine cs false [])
      | none => lexLine cs false (c :: gathered)

/-- The value of a digit in a base of at most 16. -/
def digitValue (base : Nat) (c : Char) : Option Nat :=
  let n := c.toNat
  let v :=
    if 48 ≤ n ∧ n ≤ 57 then n - 48
    else if 65 ≤ n ∧ n ≤ 70 then n - 55
    else if 97 ≤ n ∧ n ≤ 102 then n - 87
    else 16
  if v < base then some v else none

/-- The value of a run of digits after `acc`, most significant first. -/
def digitsValue (base : Nat) : List Char → Nat → Option Nat
  | [], acc => some acc
  | c :: cs, acc =>
    match digitValue base c with
    | some v => digitsValue base cs (acc * base + v)
    | none => none

/-- A number: decimal, or hexadecimal with a `0x` prefix (30_encoding R104). -/
def numberValue (cs : List Char) : Option Nat :=
  match cs with
  | '0' :: 'x' :: d :: ds => digitsValue 16 (d :: ds) 0
  | d :: ds => digitsValue 10 (d :: ds) 0
  | [] => none

/-- A number that is a byte (00_scope R18). -/
def byteValue (cs : List Char) : Option Byte :=
  match numberValue cs with
  | some v => if v < 256 then some (BitVec.ofNat 8 v) else none
  | none => none

/-- The byte list of a string: its character codes (00_scope R18). A character above code 127 is not ASCII. -/
def textBytes : List Char → Option (List Byte)
  | [] => some []
  | c :: cs =>
    match textBytes cs with
    | some bs => if c.toNat < 128 then some (BitVec.ofNat 8 c.toNat :: bs) else none
    | none => none

/-- The bytes between `[` and `]`, at least one. -/
def listedBytes : List Token → Option (List Byte)
  | [.word a, .rbracket] => (byteValue a).map (fun b => [b])
  | .word a :: .comma :: rest =>
    match byteValue a, listedBytes rest with
    | some b, some bs => some (b :: bs)
    | _, _ => none
  | _ => none

/-- The container a name stands for: the host says which names it has given to which of its containers. -/
def namedContainer (names : List (String × Nat)) (cs : List Char) : Option Container :=
  (names.find? (fun e => e.1.toList = cs)).map (fun e => .named e.2)

/-- `<stream>` (30_encoding R104). -/
def parseStream (names : List (String × Nat)) : List Token → Option Framing
  | [.text cs] => (textBytes cs).map (fun bs => .whole (.anonymous bs))
  | [.lbracket, .rbracket] => some (.whole (.anonymous []))
  | .lbracket :: rest => (listedBytes rest).map (fun bs => .whole (.anonymous bs))
  | [.word kw, .lparen, .word c, .rparen] =>
    if kw = "WHOLE".toList then (namedContainer names c).map .whole else none
  | [.word kw, .lparen, .word c, .comma, .word a, .rparen] =>
    match namedContainer names c, numberValue a with
    | some c', some off => if kw = "OFFSET".toList then some (.offset c' off) else none
    | _, _ => none
  | [.word kw, .lparen, .word c, .comma, .word a, .comma, .word b, .rparen] =>
    match namedContainer names c, numberValue a, numberValue b with
    | some c', some x, some y =>
      if kw = "OFFLEN".toList then some (.offlen c' x y)
      else if kw = "RANGE".toList then some (.range c' x y)
      else none
    | _, _, _ => none
  | _ => none

/-- The commands that are written as their mnemonic alone. -/
def bareCommands : List Instr :=
  [.reset, .rdparWidth, .rdparPoly, .rdparInit, .rdparXorout, .rdparRefin, .rdparRefout, .rdparCheck, .rdparExpected]

/-- `SET <value>` and `RDTAB <index>`, with `0 <= index <= 255` (30_encoding R104). -/
def parseNumbered (kw : List Char) (v : Nat) : Option Instr :=
  if kw = "SET".toList then some (.set v)
  else if kw = "RDTAB".toList then (if v < 256 then some (.rdtab (BitVec.ofNat 8 v)) else none)
  else none

/-- `COMPUTE <stream>` and `CSTATIC <stream>` (30_encoding R104). -/
def parseStreaming (kw : List Char) (d : Framing) : Option Instr :=
  if kw = "COMPUTE".toList then some (.compute d)
  else if kw = "CSTATIC".toList then some (.cstatic d)
  else none

/-- `COMPUTE <c>` and `CSTATIC <c>`, the name of a container alone, for its whole: not in the grammar of R104, but the
programs of 95_test_vectors L3 write it (log entry 17). -/
def parseNamed (names : List (String × Nat)) (kw cs : List Char) : Option Instr :=
  (namedContainer names cs).bind (fun c => parseStreaming kw (.whole c))

/-- One command of 30_encoding R104. -/
def parseCommand (names : List (String × Nat)) : List Token → Option Instr
  | [.word kw] => bareCommands.find? (fun i => (mnemonic i).toList = kw)
  | [.word kw, .word v] => ((numberValue v).bind (parseNumbered kw)).or (parseNamed names kw v)
  | .word kw :: rest => (parseStream names rest).bind (parseStreaming kw)
  | _ => none

/-- One line of assembler text (30_encoding R104), `names` being the names the host has given to its containers. -/
def assembleLine (names : List (String × Nat)) (line : String) : AsmLine :=
  match lexLine line.toList false [] with
  | [] => .blank
  | t :: ts =>
    match parseCommand names (t :: ts) with
    | some i => .command i
    | none => .malformed

end Sys2Proof.Machine
end

