-- ==== Sys2Proof/WellFormed.lean ====
section
/-! DEFINITION. Which commands the operand channels can carry. -/

namespace Sys2Proof

/-- A command is well formed for a configuration when its operands fit their channels: `DATA` is one value of the backing
integer type, `DATA < 2^CAP` (30_encoding R92). The other operands are as wide as their types: an index of 8 bits
(R97), bytes of 8 bits (20_memory R67), positions that are any natural (20_memory R62). -/
def Instr.wellFormed (cfg : Config) : Instr → Bool
  | .set data => decide (data < 2 ^ cfg.cap)
  | .reset => true
  | .compute _ => true
  | .cstatic _ => true
  | .rdtab _ => true
  | .rdparWidth => true
  | .rdparPoly => true
  | .rdparInit => true
  | .rdparXorout => true
  | .rdparRefin => true
  | .rdparRefout => true
  | .rdparCheck => true
  | .rdparExpected => true

end Sys2Proof
end

