-- ==== Sys2Proof/Tests/Slice0.lean ====
section
/-! SUPPORT. Tests against 95_test_vectors (each names its part), and, for every statement with hypotheses, a witness that
meets them. -/

namespace Sys2Proof.Tests

open Sys2Proof.Machine

/-! ### Configurations and engines -/

/-- A configuration of 95_test_vectors without the self-test: `(W, POLY, INIT, REFIN, REFOUT, XOROUT)` at a `CAP`. -/
def config (cap width poly init : Nat) (refin refout : Bool) (xorout : Nat) : Config :=
  { cap := cap, width := width, poly := poly, init := init, xorout := xorout, refin := refin, refout := refout,
    selftest := false, expectedCheck := 0 }

/-- The same with the self-test against an expected check value. -/
def selfTested (cfg : Config) (expected : Nat) : Config :=
  { cfg with selftest := true, expectedCheck := expected }

def xmodem : Config := config 32 16 0x1021 0x0000 false false 0x0000
def ibm3740 : Config := config 32 16 0x1021 0xFFFF false false 0x0000
def crc32 : Config := config 32 32 0x04C11DB7 0xFFFFFFFF true true 0xFFFFFFFF
def usb5 : Config := config 8 5 0x05 0x1F true true 0x1F
def smbus8 : Config := config 32 8 0x07 0x00 false false 0x00
def mmc7 : Config := config 32 7 0x09 0x00 false false 0x00
def umts12 : Config := config 32 12 0x80F 0x000 false true 0x000

/-- Container 0 is `m`, container 1 is `c5` (95_test_vectors, shorthand). -/
def hostMemory : Memory := [(0, checkVector), (1, [1, 2, 3, 4, 5])]

/-- The framing names of the tests. -/
def c5 : Container := .named 1
def m : Container := .named 0

/-- A fresh engine of a configuration, with those two containers. -/
def engine (cfg : Config) : State := { State.afterConstruction cfg with memory := hostMemory }

/-- The same with one action pending. -/
def pending (cfg : Config) (a : HostAction) : State := { engine cfg with inputs := [a] }

/-- The state an outcome goes on with. -/
def nextOf : Host.Outcome State Fault Refusal → Option State
  | .next s => some s
  | .fault _ => none
  | .refused _ => none

/-- The last response, `current` and the fault's code number and info after an outcome. -/
def after (o : Host.Outcome State Fault Refusal) : Option (Option Response × Nat × Option (BitVec 8 × Nat)) :=
  (nextOf o).map (fun s => (s.responses.getLast?, s.current, s.fault.map (fun f => (f.code.number, f.info))))

/-! ### WellFormed: the one check refuses an operand as wide as CAP and one bit more, and accepts the widest that fits -/

theorem test_wellformed_refuses_wide_data : (Instr.set (2 ^ 32)).wellFormed crc32 = false := by decide
theorem test_wellformed_accepts_widest_data : (Instr.set (2 ^ 32 - 1)).wellFormed crc32 = true := by decide

/-! ### Decoding: words written out from 30_encoding R96, every constructor (95_test_vectors L2.6) -/

theorem test_decode_reset : decode ⟨0b0001000000000000#16, none, none⟩ = .command .reset := by decide
theorem test_decode_set : decode ⟨0b0010000000000000#16, some 0x9752, none⟩ = .command (.set 0x9752) := by decide
theorem test_decode_compute : decode ⟨0b0011000000000000#16, none, some (.offlen c5 2 3)⟩ =
    .command (.compute (.offlen c5 2 3)) := by decide
theorem test_decode_cstatic : decode ⟨0b0100000000000000#16, none, some (.range c5 2 5)⟩ =
    .command (.cstatic (.range c5 2 5)) := by decide
theorem test_decode_rdtab : decode ⟨0b0101000010000001#16, none, none⟩ = .command (.rdtab 0x81#8) := by decide
theorem test_decode_rdpar_width : decode ⟨0b0110000000000000#16, none, none⟩ = .command .rdparWidth := by decide
theorem test_decode_rdpar_poly : decode ⟨0b0110000000000001#16, none, none⟩ = .command .rdparPoly := by decide
theorem test_decode_rdpar_init : decode ⟨0b0110000000000010#16, none, none⟩ = .command .rdparInit := by decide
theorem test_decode_rdpar_xorout : decode ⟨0b0110000000000011#16, none, none⟩ = .command .rdparXorout := by decide
theorem test_decode_rdpar_refin : decode ⟨0b0110000000000100#16, none, none⟩ = .command .rdparRefin := by decide
theorem test_decode_rdpar_refout : decode ⟨0b0110000000000101#16, none, none⟩ = .command .rdparRefout := by decide
theorem test_decode_rdpar_check : decode ⟨0b0110000000000110#16, none, none⟩ = .command .rdparCheck := by decide
theorem test_decode_rdpar_expected : decode ⟨0b0110000000000111#16, none, none⟩ = .command .rdparExpected := by decide

/-- The illegal rows of 95_test_vectors L2.6. -/
theorem test_decode_illegal :
    decode ⟨0x0000#16, none, none⟩ = .illegal .reservedOp 0x0000#16 ∧
    decode ⟨0x1000#16, some 0, none⟩ = .illegal .operandMismatch 0x1000#16 ∧
    decode ⟨0x1001#16, none, none⟩ = .illegal .reservedBit 0x1001#16 ∧
    decode ⟨0x2000#16, none, none⟩ = .illegal .operandMismatch 0x2000#16 ∧
    decode ⟨0x3000#16, none, none⟩ = .illegal .operandMismatch 0x3000#16 ∧
    decode ⟨0x3800#16, none, some (.whole c5)⟩ = .illegal .reservedBit 0x3800#16 ∧
    decode ⟨0x4000#16, some 0, some (.whole c5)⟩ = .illegal .operandMismatch 0x4000#16 ∧
    decode ⟨0x5100#16, none, none⟩ = .illegal .reservedBit 0x5100#16 ∧
    decode ⟨0x6008#16, none, none⟩ = .illegal .reservedBit 0x6008#16 ∧
    decode ⟨0x7000#16, none, none⟩ = .illegal .reservedOp 0x7000#16 ∧
    decode ⟨0xFFFF#16, none, none⟩ = .illegal .reservedOp 0xFFFF#16 := by decide

/-- Table words decode with operands of zeros, and an illegal word to nothing. -/
theorem test_decode_table_word :
    decodeTableWord 16 0x2000 = some (.set 0) ∧
    decodeTableWord 16 0x4000 = some (.cstatic (.whole (.anonymous []))) ∧
    decodeTableWord 16 0x50FF = some (.rdtab 0xFF#8) ∧ decodeTableWord 16 0x5100 = none := by decide

/-- A placed table word is what the next step runs: RDPAR.XOROUT on the engine right after reset. -/
theorem test_fetch_word_runs :
    after (step (State.reset.withFetchWord 16 0x6003)) = some (some (.value 0xFFFFFFFF), 0xFFFFFFFF, none) := by
  decide +kernel

/-! ### The commands (95_test_vectors L2.8) -/

/-- `RESET` from another register value. -/
theorem test_reset_crc32 :
    after (exec .reset { engine crc32 with current := 5 }) = some (some .nothing, 0xFFFFFFFF, none) := by decide +kernel
/-- `CI` is the reflected `INIT`: the row with `INIT = 0x1D0F`, `REFIN`, not `REFOUT`. -/
theorem test_reset_reflects_init :
    after (exec .reset { engine (config 32 16 0x1021 0x1D0F true false 0) with current := 0 }) =
      some (some .nothing, 0xF0B8, none) := by decide +kernel
theorem test_set_mask : after (exec (.set 0xFFFF) (engine xmodem)) = some (some .nothing, 0xFFFF, none) := by
  decide +kernel
theorem test_set_above_mask :
    after (exec (.set 0x10000) (engine xmodem)) = some (some (.error .setRange), 0, some (0x20, 0x10000)) := by
  decide +kernel
theorem test_compute_crc32 :
    after (exec (.compute (.whole m)) (engine crc32)) = some (some (.value 0xCBF43926), 0x340BC6D9, none) := by
  decide +kernel
/-- `SET 0x9752; COMPUTE OFFSET(m, 3)`, from the register SET leaves. -/
theorem test_compute_resumes :
    after (exec (.compute (.offset m 3)) { engine xmodem with current := 0x9752 }) =
      some (some (.value 0x31C3), 0x31C3, none) := by decide +kernel
theorem test_cstatic_xmodem :
    after (exec (.cstatic (.range c5 0 5)) { engine xmodem with current := 0x1234 }) =
      some (some (.value 0x8208), 0x1234, none) := by decide +kernel
theorem test_cstatic_bounds :
    after (exec (.cstatic (.offlen c5 3 4)) (engine xmodem)) = some (some (.error .rangeBounds), 0, some (0x22, 7)) := by
  decide +kernel
theorem test_rdtab_crc32 :
    after (exec (.rdtab 0x01#8) (engine crc32)) = some (some (.value 0x77073096), 0xFFFFFFFF, none) := by decide +kernel
theorem test_rdtab_usb5 :
    after (exec (.rdtab 0x80#8) (engine usb5)) = some (some (.value 0x14), 0x1F, none) := by decide +kernel
theorem test_rdpar_width :
    after (exec .rdparWidth (engine crc32)) = some (some (.value 32), 0xFFFFFFFF, none) := by decide +kernel
theorem test_rdpar_poly :
    after (exec .rdparPoly (engine crc32)) = some (some (.value 0x04C11DB7), 0xFFFFFFFF, none) := by decide +kernel
theorem test_rdpar_init :
    after (exec .rdparInit (engine (config 32 16 0x1021 0x1D0F true false 0))) =
      some (some (.value 0x1D0F), 0xF0B8, none) := by decide +kernel
theorem test_rdpar_xorout :
    after (exec .rdparXorout (engine usb5)) = some (some (.value 0x1F), 0x1F, none) := by decide +kernel
theorem test_rdpar_refin :
    after (exec .rdparRefin (engine umts12)) = some (some (.value 0), 0, none) := by decide +kernel
theorem test_rdpar_refout :
    after (exec .rdparRefout (engine umts12)) = some (some (.value 1), 0, none) := by decide +kernel
theorem test_rdpar_check :
    after (exec .rdparCheck (engine (selfTested crc32 0xCBF43926))) =
      some (some (.value 0xCBF43926), 0xFFFFFFFF, none) := by decide +kernel
theorem test_rdpar_check_without_selftest :
    after (exec .rdparCheck (engine xmodem)) = some (some (.error .noSelftest), 0, some (0x11, 0x6006)) := by
  decide +kernel
theorem test_rdpar_expected :
    after (exec .rdparExpected (engine (selfTested usb5 0x19))) = some (some (.value 0x19), 0x1F, none) := by
  decide +kernel
theorem test_rdpar_expected_without_selftest :
    after (exec .rdparExpected (engine xmodem)) = some (some (.error .noSelftest), 0, some (0x11, 0x6007)) := by
  decide +kernel

/-- The word 0x7000 faults in the step and leaves `current`. -/
theorem test_illegal_word_faults :
    after (step (pending xmodem (.issue ⟨0x7000#16, none, none⟩))) =
      some (some (.error .illegalWord), 0, some (0x10, 0x7000)) := by decide +kernel
/-- RESET is not executed on a faulted engine. -/
theorem test_faulted_engine_stops :
    nextOf (exec .reset { engine xmodem with fault := some ⟨.illegalWord, 0x7000⟩ }) = none := by decide +kernel

/-! ### Framing (95_test_vectors L2.8): the order of the checks and the empty frames -/

theorem test_frame_order_before_bounds :
    (engine xmodem).frame (.range c5 6 2) = .error ⟨.rangeOrder, 6⟩ ∧
    (engine xmodem).frame (.range c5 2 6) = .error ⟨.rangeBounds, 6⟩ ∧
    (engine xmodem).frame (.offset c5 6) = .error ⟨.rangeBounds, 6⟩ := ⟨rfl, rfl, rfl⟩
theorem test_frame_slices :
    (engine xmodem).frame (.offlen c5 2 3) = .ok [3, 4, 5] ∧ (engine xmodem).frame (.range c5 2 5) = .ok [3, 4, 5] ∧
    (engine xmodem).frame (.offset c5 5) = .ok [] ∧ (engine xmodem).frame (.range c5 3 3) = .ok [] :=
  ⟨rfl, rfl, rfl, rfl⟩

/-! ### The functions (95_test_vectors L2.1 to L2.5, L2.7) -/

theorem test_reflect_byte :
    reflectByte 0x12 8 = 0x48 ∧ reflectByte 0x06 3 = 0x3 ∧ reflectByte 0x0B 4 = 0xD ∧ reflectByte 0x13 4 = 0xC ∧
    reflectByte 0xFE 1 = 0x0 ∧ reflectByte 0x3C 7 = 0x1E := by decide +kernel
theorem test_reflect_register :
    reflectRegister 32 0x04C11DB7 = 0xEDB88320 ∧ reflectRegister 64 0x42F0E1EBA9EA3693 = 0xC96C5795D7870F42 ∧
    reflectRegister 12 0xABC = 0x3D5 ∧ reflectRegister 5 0x05 = 0x14 ∧ reflectRegister 1 1 = 1 ∧
    reflectRegisterBytewise 12 0x80F = 0xF01 := by decide +kernel
theorem test_table_crc32 :
    [0x00, 0x02, 0x04, 0x10, 0x31, 0x80, 0xFF].map (fun i => (buildTable crc32)[i]?) =
      [some 0, some 0xEE0E612C, some 0x076DC419, some 0x1DB71064, some 0x51DE003A, some 0xEDB88320, some 0x2D02EF8D] := by
  decide +kernel
theorem test_table_umts12 :
    [0x01, 0x02, 0x03, 0x10, 0x31, 0x80, 0xFF].map (fun i => (buildTable umts12)[i]?) =
      [some 0x80F, some 0x811, some 0x01E, some 0x8A5, some 0x9EF, some 0xD05, some 0x606] := by decide +kernel
theorem test_update_paths :
    update crc32 (buildTable crc32) 0xFFFFFFFF 0x31 = 0x7C231048 ∧
    update usb5 (buildTable usb5) 0x1F 0x31 = 0x03 ∧ update mmc7 (buildTable mmc7) 0x55 0x31 = 0x0B ∧
    update smbus8 (buildTable smbus8) 0xF4 0x00 = 0xC2 ∧ update umts12 (buildTable umts12) 0xABC 0x5A = 0x26F ∧
    update xmodem (buildTable xmodem) 0x1234 0xAB = 0x02F2 := by decide +kernel
theorem test_finalize :
    finalize crc32 0x340BC6D9 = 0xCBF43926 ∧ finalize umts12 0xABC = 0x3D5 ∧
    finalize (config 16 16 0 0 true false 0) 0x1234 = 0x2C48 ∧
    finalize (config 16 16 0 0 false true 0xFFFF) 0x1234 = 0xD3B7 ∧ unfinalize crc32 0x9BE3E0A3 = 0x641C1F5C := by
  decide +kernel
theorem test_check_values :
    computeCheck umts12 (buildTable umts12) = 0xDAF ∧ computeCheck mmc7 (buildTable mmc7) = 0x75 ∧
    serialChecksum crc32 checkVector = 0xCBF43926 := by decide +kernel

/-! ### Construction (95_test_vectors L2.10) -/

theorem test_configuration_errors :
    validate (config 32 0 1 0 false false 0) = some .widthZero ∧
    validate (config 32 40 (2 ^ 40) 0 false false 0) = some .widthOverCap ∧
    validate (config 32 8 0x100 0x100 false false 0) = some .polyRange ∧
    validate (config 32 16 0x1021 0x10000 false false 0) = some .initRange ∧
    validate (config 32 16 0x1021 0 false false 0x1FFFF) = some .xoroutRange := by decide
theorem test_selftest_mismatch :
    (∃ e, construct (selfTested xmodem 0x131C3) = .error e ∧ e = .selftestMismatch) ∧
    (∃ s, construct (selfTested ibm3740 0x29B1) = .ok s ∧ s.current = 0xFFFF) := by
  constructor
  · exact ⟨.selftestMismatch, by
      rw [construct, show validate (selfTested xmodem 0x131C3) = none by decide]
      simp only [show selftestFails (selfTested xmodem 0x131C3)
        (State.afterConstruction (selfTested xmodem 0x131C3)).check = true by decide +kernel, if_true], rfl⟩
  · exact ⟨State.afterConstruction (selfTested ibm3740 0x29B1), by
      rw [construct, show validate (selfTested ibm3740 0x29B1) = none by decide]
      simp only [show selftestFails (selfTested ibm3740 0x29B1)
        (State.afterConstruction (selfTested ibm3740 0x29B1)).check = false by decide +kernel,
        Bool.false_eq_true, if_false], by decide⟩

/-! ### Assembler text (30_encoding R104, lines of 95_test_vectors P1 to P4) -/

theorem test_assemble_stream :
    assembleLine [("c5", 1)] "COMPUTE OFFLEN(c5,2,3); 0x3000" = .command (.compute (.offlen (.named 1) 2 3)) ∧
    assembleLine [] "COMPUTE \"1234\"" = .command (.compute (.whole (.anonymous [0x31, 0x32, 0x33, 0x34]))) ∧
    assembleLine [("m", 0)] "CSTATIC m             ; 0x4000" = .command (.cstatic (.whole (.named 0))) ∧
    assembleLine [("m", 0)] "CSTATIC WHOLE(c5)" = .malformed ∧
    assembleLine [] "COMPUTE []" = .command (.compute (.whole (.anonymous []))) ∧
    assembleLine [] "CSTATIC [0x31, 50]" = .command (.cstatic (.whole (.anonymous [0x31, 0x32]))) := by decide
theorem test_assemble_plain :
    assembleLine [] "SET 0x9752" = .command (.set 0x9752) ∧ assembleLine [] "RDTAB 255" = .command (.rdtab 0xFF#8) ∧
    assembleLine [] "RDTAB 256" = .malformed ∧ assembleLine [] "RDPAR.REFOUT  ; flag" = .command .rdparRefout ∧
    assembleLine [] "; only a comment" = .blank := by decide

/-! ### Witnesses: for each statement with hypotheses, a state and operands that meet all of them, each clause at a boundary -/

def usb5Tested : Config := selfTested usb5 0x19

/-- The engines of CRC-5/USB (reflected, self-test) and CRC-16/XMODEM (not reflected, no self-test), with the host's
containers and any register value of their width, meet the invariant. -/
theorem test_witness_engine_inv_usb5 : EngineInv { engine usb5Tested with current := 0x1F } :=
  ⟨by decide, rfl, rfl, fun _ => (by decide +kernel), by decide, fun _ h => (by cases h), by decide⟩
theorem test_witness_engine_inv_xmodem : EngineInv { engine xmodem with current := 0xFFFF } :=
  ⟨by decide, rfl, rfl, fun h => (by cases h), by decide, fun _ h => (by cases h), by decide⟩

/-- Legal configurations at the widths where a path changes: 1, 5, 7, 8 and 16, and at `W = CAP`, with both `REFIN`. -/
theorem test_witness_legal_config :
    legalConfig (config 1 1 1 1 true false 1) ∧ legalConfig (config 1 1 1 1 false false 1) ∧ legalConfig usb5 ∧
    legalConfig mmc7 ∧ legalConfig smbus8 ∧ legalConfig (config 8 8 0x31 0xFF true true 0xFF) ∧ legalConfig xmodem ∧
    legalConfig crc32 := by decide

/-- EncodeDecodeRoundTrip and StepRunsDecodedCommand. -/
theorem test_witness_decoded_command :
    let c : Command := ⟨0x50FF#16, none, none⟩
    (pending xmodem (.issue c)).inputs = .issue c :: [] ∧ decode c = .command (.rdtab 255#8) := by decide

/-- IllegalTransactionsFault: any transaction can be pending, and each of the nine ways to be illegal has one. -/
theorem test_witness_illegal_pending (c : Command) :
    (pending xmodem (.issue c)).fault = none ∧ (pending xmodem (.issue c)).inputs = .issue c :: [] := ⟨rfl, rfl⟩
theorem test_witness_illegal_transactions :
    (∃ c : Command, field c.word 15 12 = 0) ∧
    (∃ c : Command, field c.word 15 12 = 7 ∧ 7 ≤ field c.word 15 12) ∧
    (∃ c : Command, field c.word 15 12 = 15 ∧ 7 ≤ field c.word 15 12) ∧
    (∃ c : Command, field c.word 15 12 = 4 ∧ field c.word 15 12 ≤ 4 ∧ field c.word 11 0 ≠ 0) ∧
    (∃ c : Command, field c.word 15 12 = 5 ∧ field c.word 11 8 ≠ 0) ∧
    (∃ c : Command, field c.word 15 12 = 6 ∧ field c.word 11 3 ≠ 0) ∧
    (∃ c : Command, field c.word 15 12 = 2 ∧ c.data = none) ∧
    (∃ c : Command, field c.word 15 12 ≠ 2 ∧ c.data ≠ none) ∧
    (∃ c : Command, field c.word 15 12 = 3 ∧ c.stream = none) ∧
    (∃ c : Command, field c.word 15 12 = 4 ∧ c.stream = none) ∧
    (∃ c : Command, field c.word 15 12 ≠ 3 ∧ field c.word 15 12 ≠ 4 ∧ c.stream ≠ none) :=
  ⟨⟨⟨0x0FFF#16, none, none⟩, by decide⟩, ⟨⟨0x7000#16, none, none⟩, by decide⟩, ⟨⟨0xFFFF#16, none, none⟩, by decide⟩,
   ⟨⟨0x4001#16, none, some (.whole c5)⟩, by decide⟩, ⟨⟨0x5100#16, none, none⟩, by decide⟩,
   ⟨⟨0x6008#16, none, none⟩, by decide⟩, ⟨⟨0x2000#16, none, none⟩, by decide⟩, ⟨⟨0x1000#16, some 0, none⟩, by decide⟩,
   ⟨⟨0x3000#16, none, none⟩, by decide⟩, ⟨⟨0x4000#16, none, none⟩, by decide⟩,
   ⟨⟨0x5000#16, none, some (.whole c5)⟩, by decide⟩⟩

/-- IdleEngineHoldsState, and every statement whose one hypothesis is that the engine has no fault (ResetCommand,
SetCommand, ComputeCommand, CstaticCommand, RdparConstantCommands, ApiCallForms, RunsEnd). -/
theorem test_witness_idle : (engine xmodem).fault = none ∧ (engine xmodem).inputs = [] := ⟨rfl, rfl⟩

/-- FaultedEngineHasNoStep. -/
theorem test_witness_faulted :
    { engine xmodem with fault := some ⟨.rangeOrder, 4⟩ }.fault = some ⟨.rangeOrder, 4⟩ := rfl

/-- HostSupplyTouchesOnlyContainers: a container replaced, one emptied, one made. -/
theorem test_witness_supply (n : Nat) (bytes : List Byte) :
    (pending xmodem (.supply n bytes)).fault = none ∧ (pending xmodem (.supply n bytes)).memory.wf ∧
    (pending xmodem (.supply n bytes)).inputs = .supply n bytes :: [] :=
  ⟨rfl, (by decide : Memory.wf hostMemory), rfl⟩

/-- ResetCommand and EmptyStreamAfterReset: the ways a stream frames as empty. -/
theorem test_witness_empty_stream :
    legalConfig (engine usb5).cfg ∧ (engine usb5).fault = none ∧ (engine usb5).frame (.whole (.anonymous [])) = .ok [] ∧
    (engine usb5).frame (.range c5 5 5) = .ok [] ∧
    ∃ t, exec .reset (engine usb5) = .next t ∧ t.frame (.offlen c5 5 0) = .ok [] :=
  ⟨by decide, rfl, rfl, rfl, _, rfl, rfl⟩

/-- SetCommand: the widest operand, and one more. -/
theorem test_witness_set_boundary :
    0x1F ≤ 2 ^ (engine usb5).cfg.width - 1 ∧ 0x20 > 2 ^ (engine usb5).cfg.width - 1 ∧ legalConfig (engine usb5).cfg := by
  decide

/-- ComputeCommand and CstaticCommand: a stream that frames, from the widest register; and both faults of framing. -/
theorem test_witness_compute :
    (engine usb5).fault = none ∧ (engine usb5).frame (.range c5 4 5) = .ok [5] ∧ legalConfig (engine usb5).cfg ∧
    (engine usb5).current ≤ 2 ^ (engine usb5).cfg.width - 1 ∧
    (engine usb5).frame (.range c5 5 4) = .error ⟨.rangeOrder, 5⟩ ∧
    (engine usb5).frame (.range c5 5 6) = .error ⟨.rangeBounds, 6⟩ :=
  ⟨rfl, rfl, by decide, by decide +kernel, rfl, rfl⟩

/-- RdtabCommand and RdparSelftestCommands, NoSelftestFaults. -/
theorem test_witness_selftest :
    EngineInv { engine usb5Tested with current := 0x1F } ∧ (engine usb5Tested).fault = none ∧
    (engine usb5Tested).cfg.selftest = true ∧ (engine xmodem).fault = none ∧ (engine xmodem).cfg.selftest = false :=
  ⟨test_witness_engine_inv_usb5, rfl, rfl, rfl, rfl⟩

/-- RangeFraming, WholeAndOffsetFraming, OfflenFraming, ApiCallForms: where the clauses meet, on a container of five bytes. -/
theorem test_witness_framing :
    ((engine xmodem).container c5).length = 5 ∧ ((engine xmodem).container (.named 9)).length = 0 ∧
    (6 > 5 ∧ 5 ≤ 6 ∧ 6 > ((engine xmodem).container c5).length) ∧
    (5 ≤ 5 ∧ 5 ≤ ((engine xmodem).container c5).length) ∧
    (5 + 1 > ((engine xmodem).container c5).length ∧ 5 + 0 ≤ ((engine xmodem).container c5).length) := by decide

/-- RangeOrderFaults and RangeBoundsFaults: each framing, one position past the end. -/
theorem test_witness_range_faults :
    (engine xmodem).fault = none ∧ 1 > 0 ∧ 6 > ((engine xmodem).container c5).length ∧
    (∃ b, b ≤ 6 ∧ Framing.range c5 6 6 = .range c5 b 6) ∧ Framing.offset c5 6 = .offset c5 6 ∧
    (∃ off n, off + n = 6 ∧ Framing.offlen c5 5 1 = .offlen c5 off n) :=
  ⟨rfl, by decide, by decide, ⟨6, by decide, rfl⟩, rfl, ⟨5, 1, rfl, rfl⟩⟩

/-- CurrentWritersFrame and OnlyWritersChangeCurrent: each of the three commands completes and changes `current`. -/
theorem test_witness_current_writers :
    (∃ t, exec .reset { engine usb5 with current := 0 } = .next t ∧ t.current ≠ 0) ∧
    (∃ t, exec (.set 0x1F) { engine usb5 with current := 0 } = .next t ∧ t.current ≠ 0) ∧
    (∃ t, exec (.compute (.range c5 0 1)) { engine usb5 with current := 0 } = .next t ∧ t.current ≠ 0) ∧
    (∃ t, exec (.set 0x20) (engine usb5) = .next t ∧ t.fault = some ⟨.setRange, 0x20⟩) :=
  ⟨⟨_, rfl, by decide +kernel⟩, ⟨_, rfl, by decide +kernel⟩, ⟨_, rfl, by decide +kernel⟩, ⟨_, rfl, rfl⟩⟩

/-- PureCommandsFrame and PureCommandsReadNoMutableState: each of the commands completes, and the three that can fault do. -/
theorem test_witness_pure_commands :
    (∃ t, exec (.cstatic (.whole c5)) (engine usb5) = .next t) ∧ (∃ t, exec (.rdtab 255#8) (engine usb5) = .next t) ∧
    (∃ t, exec .rdparWidth (engine usb5) = .next t) ∧ (∃ t, exec .rdparPoly (engine usb5) = .next t) ∧
    (∃ t, exec .rdparInit (engine usb5) = .next t) ∧ (∃ t, exec .rdparXorout (engine usb5) = .next t) ∧
    (∃ t, exec .rdparRefin (engine usb5) = .next t) ∧ (∃ t, exec .rdparRefout (engine usb5) = .next t) ∧
    (∃ t, exec .rdparCheck (engine usb5Tested) = .next t ∧ t.fault = none) ∧
    (∃ t, exec .rdparExpected (engine usb5Tested) = .next t ∧ t.fault = none) ∧
    (∃ t, exec (.cstatic (.offset c5 6)) (engine usb5) = .next t ∧ t.fault ≠ none) ∧
    (∃ t, exec .rdparCheck (engine usb5) = .next t ∧ t.fault = some ⟨.noSelftest, 0x6006⟩) ∧
    (∃ t, exec .rdparExpected (engine usb5) = .next t ∧ t.fault = some ⟨.noSelftest, 0x6007⟩) :=
  ⟨⟨_, rfl⟩, ⟨_, rfl⟩, ⟨_, rfl⟩, ⟨_, rfl⟩, ⟨_, rfl⟩, ⟨_, rfl⟩, ⟨_, rfl⟩, ⟨_, rfl⟩, ⟨_, rfl, rfl⟩, ⟨_, rfl, rfl⟩,
   ⟨_, rfl, fun h => by cases h⟩, ⟨_, rfl, rfl⟩, ⟨_, rfl, rfl⟩⟩

/-- PureCommandsReadNoMutableState: two engines that agree in their constants and containers, and differ in `current` and in
the earlier responses. -/
theorem test_witness_pure_two_engines :
    let u : State := { engine usb5 with current := 0, responses := [.nothing] }
    u.cfg = (engine usb5).cfg ∧ u.table = (engine usb5).table ∧ u.check = (engine usb5).check ∧
    u.memory = (engine usb5).memory ∧ u.fault = none ∧ Instr.rdparWidth ≠ .reset ∧
    (∀ v, Instr.rdparWidth ≠ .set v) ∧ (∀ d, Instr.rdparWidth ≠ .compute d) :=
  ⟨rfl, rfl, rfl, rfl, rfl, by decide, fun _ h => (by cases h), fun _ h => (by cases h)⟩

/-- StepKeepsConstants, FaultEntryIsPrecise, OneResponsePerCommand: a command that completes, each form of response, and two
that fault, one in decoding and one in executing. -/
theorem test_witness_steps :
    (∃ t, step (pending usb5 (.issue ⟨0x1000#16, none, none⟩)) = .next t ∧ t.fault = none) ∧
    (∃ t, step (pending usb5 (.issue ⟨0x2000#16, some 0x1F, none⟩)) = .next t ∧ t.fault = none) ∧
    (∃ t, step (pending usb5 (.issue ⟨0x6000#16, none, none⟩)) = .next t ∧ t.fault = none) ∧
    (∃ t, step (pending usb5 (.issue ⟨0x7000#16, none, none⟩)) = .next t ∧ t.fault = some ⟨.illegalWord, 0x7000⟩) ∧
    (∃ t, step (pending usb5 (.issue ⟨0x2000#16, some 0x20, none⟩)) = .next t ∧ t.fault = some ⟨.setRange, 0x20⟩) :=
  ⟨⟨_, rfl, rfl⟩, ⟨_, rfl, rfl⟩, ⟨_, rfl, rfl⟩, ⟨_, rfl, rfl⟩, ⟨_, rfl, rfl⟩⟩

/-- FaultsByCommand: each command that can fault, in the engine it faults in. -/
theorem test_witness_faults :
    (∃ t f, exec (.set 0x20) (engine usb5) = .next t ∧ t.fault = some f) ∧
    (∃ t f, exec (.compute (.range c5 1 0)) (engine usb5) = .next t ∧ t.fault = some f) ∧
    (∃ t f, exec (.cstatic (.range c5 0 6)) (engine usb5) = .next t ∧ t.fault = some f) :=
  ⟨⟨_, _, rfl, rfl⟩, ⟨_, _, rfl, rfl⟩, ⟨_, _, rfl, rfl⟩⟩

/-- StepKeepsEngineInv: a step of an engine that meets the invariant. -/
theorem test_witness_step_inv :
    EngineInv { engine xmodem with current := 0xFFFF } ∧
    ∃ t, step { engine xmodem with current := 0xFFFF } = .next t := ⟨test_witness_engine_inv_xmodem, _, rfl⟩

/-- ConstructionGivesEngineInv and ConstructedState. -/
theorem test_witness_construct :
    construct xmodem = .ok (State.afterConstruction xmodem) ∧ construct usb5 = .ok (State.afterConstruction usb5) :=
  ⟨rfl, rfl⟩

/-- ConfigurationErrorsInOrder: each clause at the boundary of its condition. -/
theorem test_witness_configuration_errors :
    (config 32 0 0 0 false false 0).width = 0 ∧
    (config 32 33 0 0 false false 0).width > (config 32 33 0 0 false false 0).cap ∧
    (1 ≤ 8 ∧ 8 ≤ 8 ∧ 0x100 ≥ 2 ^ (config 8 8 0x100 0 false false 0).width) ∧
    (0xFF < 2 ^ (config 8 8 0xFF 0x100 false false 0).width ∧ 0x100 ≥ 2 ^ (config 8 8 0xFF 0x100 false false 0).width) ∧
    (0xFF < 2 ^ (config 8 8 0xFF 0xFF false false 0x100).width ∧
      0x100 ≥ 2 ^ (config 8 8 0xFF 0xFF false false 0x100).width) := by decide
theorem test_witness_selftest_clauses :
    (legalConfig (selfTested usb5 0x18) ∧ computeCheck (selfTested usb5 0x18) (buildTable usb5) ≠ 0x18) ∧
    (legalConfig usb5Tested ∧ computeCheck usb5Tested (buildTable usb5Tested) = usb5Tested.expectedCheck) ∧
    (legalConfig usb5 ∧ usb5.selftest = false) := by decide +kernel

/-- ReflectByteReverses, ReflectRegisterReverses, ReflectRegisterIsBytewise, ReflectionIsInvolution, BaseTableByDoubling,
TableEntryIsSerialRegister, TableEntryIsPolynomialRemainder: the ends of their ranges. -/
theorem test_witness_numeric_ranges :
    (255 < 256 ∧ 1 ≤ 1 ∧ 1 ≤ 8 ∧ 8 ≤ 8 ∧ 255 < 2 ^ 8) ∧ (1 ≤ 1 ∧ 1 < 2 ^ 1) ∧ (1 ≤ 12 ∧ 0xFFF < 2 ^ 12) ∧
    (6 < 7 ∧ 7 < 8 ∧ 127 < 2 ^ 7) := by decide

/-- TableCorners: `W = 8` with an odd polynomial, and the `W = 1` clause. -/
theorem test_witness_table_corners :
    legalConfig smbus8 ∧ 8 ≤ smbus8.width ∧ smbus8.poly % 2 = 1 ∧ 1 < 2 ∧ 255 < 256 := by decide

/-- TableIndexInRange, UpdatePathCorners, FoldReadsOncePerByte, FinalizeIsBijection, TableDrivenEqualsBitSerial: the widest
register in each path. -/
theorem test_witness_update_paths :
    (legalConfig usb5 ∧ 0x1F < 2 ^ usb5.width ∧ usb5.refin = true ∧ usb5.width ≤ 8) ∧
    (legalConfig mmc7 ∧ 0x7F < 2 ^ mmc7.width ∧ mmc7.refin = false ∧ mmc7.width < 8) ∧
    (legalConfig smbus8 ∧ 0xFF < 2 ^ smbus8.width ∧ smbus8.refin = false ∧ smbus8.width = 8) ∧
    (legalConfig xmodem ∧ 0xFFFF < 2 ^ xmodem.width ∧ xmodem.refin = false ∧ 8 ≤ xmodem.width) := by decide

/-- CstaticAnswersBitSerialChecksum and OneShotEqualsStreaming. -/
theorem test_witness_checksum :
    EngineInv { engine xmodem with current := 0xFFFF } ∧ { engine xmodem with current := 0xFFFF }.fault = none ∧
    { engine xmodem with current := 0xFFFF }.frame (.whole c5) = .ok [1, 2, 3, 4, 5] :=
  ⟨test_witness_engine_inv_xmodem, rfl, rfl⟩

/-- IncrementalEquivalence, with parts of two and three bytes, and with an empty first part. -/
theorem test_witness_incremental :
    (engine xmodem).fault = none ∧ (engine xmodem).current = correctedInitial (engine xmodem).cfg ∧
    (engine xmodem).frame (.range c5 0 2) = .ok [1, 2] ∧ (engine xmodem).frame (.offset c5 2) = .ok [3, 4, 5] ∧
    (engine xmodem).frame (.whole c5) = .ok ([1, 2] ++ [3, 4, 5]) ∧
    (engine xmodem).frame (.range c5 0 0) = .ok [] ∧ (engine xmodem).frame (.whole c5) = .ok ([] ++ [1, 2, 3, 4, 5]) :=
  ⟨rfl, rfl, rfl, rfl, rfl, rfl, rfl⟩

/-- ResumeFromReportedChecksum: a COMPUTE that answers a value, and an engine of the same configuration. -/
theorem test_witness_resume :
    EngineInv { engine xmodem with current := 0xFFFF } ∧
    ∃ t v, exec (.compute (.whole c5)) { engine xmodem with current := 0xFFFF } = .next t ∧
      t.responses = { engine xmodem with current := 0xFFFF }.responses ++ [.value v] ∧
      (State.afterConstruction xmodem).cfg = { engine xmodem with current := 0xFFFF }.cfg ∧
      (State.afterConstruction xmodem).fault = none :=
  ⟨test_witness_engine_inv_xmodem, _, _, rfl, rfl, rfl, rfl⟩

end Sys2Proof.Tests
end

section
/-! PROOFS. What no command and no step writes. -/

namespace Sys2Proof.Machine

/-- The frame of a command: it writes at most `current`, the fault record and the responses (10_state R34, R45). -/
theorem ExecEffect.frame {s t : State} {i : Instr} (h : ExecEffect s i t) :
    t.cfg = s.cfg ∧ t.table = s.table ∧ t.check = s.check ∧ t.memory = s.memory ∧ t.inputs = s.inputs := by
  cases h <;> simp

/-- Idling, the host's supply and an illegal word write no constant either, so no effect of a step does. -/
theorem StepEffect.keeps_constants {s t : State} (h : StepEffect s t) :
    t.cfg = s.cfg ∧ t.table = s.table ∧ t.check = s.check := by
  cases h with
  | idle _ => exact ⟨rfl, rfl, rfl⟩
  | supply n bytes rest _ => simp
  | command c rest i _ _ _ he =>
    obtain ⟨hcfg, htable, hcheck, -, -⟩ := he.frame
    exact ⟨hcfg, htable, hcheck⟩
  | illegal c rest why word _ _ => simp

/-- Settles O27: every step has one of the effects of `StepEffect`, and each keeps the constants. -/
theorem stepKeepsConstants : Obligations.StepKeepsConstants :=
  fun _ _ h => (step_effect h).2.keeps_constants

end Sys2Proof.Machine
end

section
/-! PROOFS. Every value a command answers fits the response channel (30_encoding R94): the table, finalization and the
check value stay in `W` bits, and `W` is at most `CAP`. -/

namespace Sys2Proof.Machine

/-- One turn of the builder's loop doubles the list of entries (41_table_generator R151). -/
theorem doublingPass_length (w poly : Nat) (st : Nat × List Nat) :
    (doublingPass w poly st).2.length = 2 * st.2.length := by
  simp [doublingPass, two_mul]

/-- One turn of the builder's loop keeps every entry in `W` bits: what it appends is an XOR with the masked `crc`. -/
theorem doublingPass_lt {w poly : Nat} {st : Nat × List Nat} (h : ∀ e ∈ st.2, e < 2 ^ w) :
    ∀ e ∈ (doublingPass w poly st).2, e < 2 ^ w := by
  intro e he
  rcases List.mem_append.1 he with he | he
  · exact h e he
  · obtain ⟨a, ha, rfl⟩ := List.mem_map.1 he
    exact Nat.xor_lt_two_pow (maskTo_lt _ _) (h a ha)

/-- The loop doubles the list once a turn (41_table_generator R151). -/
theorem doublingPasses_length (w poly n : Nat) (st : Nat × List Nat) :
    (doublingPasses w poly n st).2.length = 2 ^ n * st.2.length := by
  induction n generalizing st with
  | zero => simp [doublingPasses]
  | succ n ih => rw [doublingPasses, ih, doublingPass_length, pow_succ, mul_assoc]

/-- The loop keeps every entry in `W` bits. -/
theorem doublingPasses_lt {w poly : Nat} (n : Nat) {st : Nat × List Nat} (h : ∀ e ∈ st.2, e < 2 ^ w) :
    ∀ e ∈ (doublingPasses w poly n st).2, e < 2 ^ w := by
  induction n generalizing st with
  | zero => exact h
  | succ n ih => exact ih (doublingPass_lt h)

/-- The base table has 256 entries (41_table_generator R154). -/
theorem buildBase_length (w poly : Nat) : (buildBase w poly).length = 256 :=
  doublingPasses_length w poly 8 _

/-- The entries of the base table have `W` bits, whatever the polynomial (41_table_generator R154). -/
theorem buildBase_lt {w poly e : Nat} (h : e ∈ buildBase w poly) : e < 2 ^ w :=
  doublingPasses_lt 8 (by simp) e h

/-- The engine's table has 256 entries (41_table_generator R154). -/
theorem buildTable_length (cfg : Config) : (buildTable cfg).length = 256 := by
  unfold buildTable
  split
  · simp [buildReflected]
  · exact buildBase_length _ _

/-- The entries of the engine's table have `W` bits (41_table_generator R154). -/
theorem buildTable_lt {cfg : Config} {e : Nat} (h : e ∈ buildTable cfg) : e < 2 ^ cfg.width := by
  unfold buildTable at h
  split at h
  · obtain ⟨i, -, rfl⟩ := List.mem_map.1 h
    exact reflectRegister_lt _ _
  · exact buildBase_lt h

/-- A read of the engine's table at a byte has `W` bits (20_memory R61). -/
theorem tableRead_buildTable_lt (cfg : Config) {i : Nat} (hi : i < 256) :
    tableRead (buildTable cfg) i < 2 ^ cfg.width := by
  have h : i < (buildTable cfg).length := by rwa [buildTable_length]
  rw [tableRead_of_lt h]
  exact buildTable_lt (List.getElem_mem h)

/-- Finalization of a `W`-bit value has `W` bits (42_register_update R180). -/
theorem finalize_lt {cfg : Config} (hl : legalConfig cfg) {c : Nat} (hc : c < 2 ^ cfg.width) :
    finalize cfg c < 2 ^ cfg.width := by
  obtain ⟨-, -, -, -, hxorout⟩ := hl
  unfold finalize
  refine Nat.xor_lt_two_pow ?_ hxorout
  split
  · exact reflectRegister_lt _ _
  · exact hc

/-- The check value has `W` bits, whatever the table holds (43_engine R209). -/
theorem computeCheck_lt {cfg : Config} (hl : legalConfig cfg) (table : List Nat) :
    computeCheck cfg table < 2 ^ cfg.width :=
  finalize_lt hl (fold_lt _ _ _ _ (correctedInitial_lt hl))

/-- A `W`-bit value fits the response channel, since `W` is at most `CAP` (60_exceptions R242). -/
theorem Response.fits_value {cfg : Config} (hl : legalConfig cfg) {v : Nat} (hv : v < 2 ^ cfg.width) :
    (Response.value v).fits cfg.cap := by
  obtain ⟨-, hcap, -⟩ := hl
  exact hv.trans_le (Nat.pow_le_pow_right (by omega) hcap)

/-- A flag fits the response channel, which is at least one bit wide. -/
theorem Response.fits_flagValue {cfg : Config} (hl : legalConfig cfg) (b : Bool) :
    (Response.value (flagValue b)).fits cfg.cap := by
  refine fits_value hl ?_
  have hW : 1 < 2 ^ cfg.width := Nat.one_lt_two_pow (Nat.one_le_iff_ne_zero.1 hl.1)
  cases b <;> simp [flagValue, hW]

end Sys2Proof.Machine
end

section
/-! PROOFS. The invariant of an engine that exists, kept by each named update of the state, hence by each command and each
step. -/

namespace Sys2Proof.Machine

/-- What the host has yet to do is outside the invariant. -/
theorem EngineInv.withInputs {s : State} (h : EngineInv s) (rest : List HostAction) : EngineInv (s.withInputs rest) where
  __ := h

/-- A container the host replaces stays in canonical form. -/
theorem EngineInv.supply {s : State} (h : EngineInv s) (n : Nat) (bytes : List Byte) : EngineInv (s.supply n bytes) where
  __ := h
  memory := Memory.wf_write h.memory n bytes

/-- `current` may take any value up to `MASK` (10_state R37). -/
theorem EngineInv.setCurrent {s : State} (h : EngineInv s) {v : Nat} (hv : v < 2 ^ s.cfg.width) :
    EngineInv (s.setCurrent v) where
  __ := h
  current := le_allOnes_iff.2 hv

/-- A response that fits the channel may be given (30_encoding R94). -/
theorem EngineInv.respond {s : State} (h : EngineInv s) {r : Response} (hr : r.fits s.cfg.cap) :
    EngineInv (s.respond r) where
  __ := h
  responses := by
    intro r' hr'
    rcases List.mem_append.1 hr' with hr' | hr'
    · exact h.responses r' hr'
    · rw [List.mem_singleton.1 hr']; exact hr

/-- Taking a fault keeps the invariant: the fault record is outside it and an error response always fits. -/
theorem EngineInv.raise {s : State} (h : EngineInv s) (f : FaultRecord) : EngineInv (s.raise f) where
  __ := h
  responses := (h.respond (r := .error f.code) trivial).responses

/-- `current` has `W` bits (10_state R37). -/
theorem EngineInv.current_lt {s : State} (h : EngineInv s) : s.current < 2 ^ s.cfg.width :=
  le_allOnes_iff.1 h.current

/-- The check value has `W` bits (43_engine R209). -/
theorem EngineInv.check_lt {s : State} (h : EngineInv s) : s.check < 2 ^ s.cfg.width := by
  rw [h.check]
  exact computeCheck_lt h.legal _

/-- Every command keeps the invariant: what it writes to `current` and what it answers have `W` bits. -/
theorem ExecEffect.keeps_engineInv {s t : State} {i : Instr} (h : ExecEffect s i t) (hs : EngineInv s) :
    EngineInv t := by
  have hl := hs.legal
  obtain ⟨-, -, hpoly, hinit, hxorout⟩ := hs.legal
  have answers {v : Nat} (hv : v < 2 ^ s.cfg.width) : EngineInv (s.respond (.value v)) :=
    hs.respond (Response.fits_value hl hv)
  cases h with
  | setRange | computeFault | cstaticFault | checkFault | expectedFault => exact hs.raise _
  | reset => exact (hs.setCurrent (correctedInitial_lt hl)).respond trivial
  | set v hv => exact (hs.setCurrent (le_allOnes_iff.1 hv)).respond trivial
  | compute d bytes _ =>
    have hc := fold_lt s.cfg s.table s.current bytes hs.current_lt
    exact (hs.setCurrent hc).respond (Response.fits_value hl (finalize_lt hl hc))
  | cstatic d bytes _ => exact answers (finalize_lt hl (fold_lt _ _ _ _ (correctedInitial_lt hl)))
  | rdtab idx =>
    rw [hs.table]
    exact answers (tableRead_buildTable_lt s.cfg idx.isLt)
  | width => exact answers Nat.lt_two_pow_self
  | poly => exact answers hpoly
  | init => exact answers hinit
  | xorout => exact answers hxorout
  | refin => exact hs.respond (Response.fits_flagValue hl _)
  | refout => exact hs.respond (Response.fits_flagValue hl _)
  | check _ => exact answers hs.check_lt
  | expected hself => exact answers (hs.selftest hself ▸ hs.check_lt)

/-- Every effect of a step keeps the invariant. -/
theorem StepEffect.keeps_engineInv {s t : State} (h : StepEffect s t) (hs : EngineInv s) : EngineInv t := by
  cases h with
  | idle _ => exact hs
  | supply n bytes rest _ => exact (hs.withInputs rest).supply n bytes
  | command c rest i _ _ _ he => exact he.keeps_engineInv (hs.withInputs rest)
  | illegal c rest why word _ _ => exact (hs.withInputs rest).raise _

/-- Settles O32: every step has one of the effects of `StepEffect`, and each keeps the invariant. -/
theorem stepKeepsEngineInv : Obligations.StepKeepsEngineInv :=
  fun _ _ hs h => (step_effect h).2.keeps_engineInv hs

end Sys2Proof.Machine
end

section
/-! PROOFS. The frame of each command: who writes `current`, who can fault, and the one response (10_state R38). -/

namespace Sys2Proof.Machine

/-- The commands that can fault once decoded (60_exceptions R250-R253); `ExecEffect.fault_cases` ties it to `exec`. -/
def canFault : Instr → Bool
  | .set _ | .compute _ | .cstatic _ | .rdparCheck | .rdparExpected => true
  | _ => false

/-- A command adds one response and drops none (30_encoding R90, R94). -/
theorem ExecEffect.adds_one_response {s t : State} {i : Instr} (h : ExecEffect s i t) :
    ∃ r, t.responses = s.responses ++ [r] := by
  cases h <;> exact ⟨_, rfl⟩

/-- A command leaves the fault record alone, or it is one that can fault, and then it leaves `current` alone
(60_exceptions R256). -/
theorem ExecEffect.fault_cases {s t : State} {i : Instr} (h : ExecEffect s i t) :
    t.fault = s.fault ∨ t.current = s.current ∧ canFault i = true ∧ ∃ f, t.fault = some f := by
  cases h with
  | setRange | computeFault | cstaticFault | checkFault | expectedFault => exact .inr ⟨rfl, rfl, _, rfl⟩
  | _ => exact .inl rfl

/-- A command leaves `current` alone, or it is RESET, SET or COMPUTE and writes the value of its rule (10_state R38). -/
theorem ExecEffect.current_cases {s t : State} {i : Instr} (h : ExecEffect s i t) :
    t.current = s.current ∨
    (i = .reset ∧ t.current = correctedInitial s.cfg) ∨
    (∃ v, i = .set v ∧ t.current = v ∧ v ≤ 2 ^ s.cfg.width - 1) ∨
    (∃ d bytes, i = .compute d ∧ s.frame d = .ok bytes ∧ t.current = fold s.cfg s.table s.current bytes) := by
  cases h with
  | reset => exact .inr (.inl ⟨rfl, rfl⟩)
  | set v hv => exact .inr (.inr (.inl ⟨v, rfl, rfl, hv⟩))
  | compute d bytes hd => exact .inr (.inr (.inr ⟨d, bytes, rfl, hd, rfl⟩))
  | _ => exact .inl rfl

/-- Settles O24: the frame of every command, with RESET not one that can fault. -/
theorem currentWritersFrame : Obligations.CurrentWritersFrame := by
  intro s t v d i _ h
  have he := (exec_effect h).2
  obtain ⟨hcfg, htable, hcheck, hmemory, hinputs⟩ := he.frame
  refine ⟨hcfg, htable, hcheck, hinputs, hmemory, State.memRead_of_memory hmemory, he.adds_one_response, ?_⟩
  rcases he.fault_cases with hfault | ⟨hcurrent, hcan, hfault⟩
  · exact .inl hfault
  · refine .inr ⟨hcurrent, ?_, hfault⟩
    rintro rfl
    simp [canFault] at hcan

/-- Settles O25: the frame of every command, with the commands listed not among those that write `current`. -/
theorem pureCommandsFrame : Obligations.PureCommandsFrame := by
  intro s t d idx i hi h
  have he := (exec_effect h).2
  obtain ⟨hcfg, htable, hcheck, hmemory, hinputs⟩ := he.frame
  have hcurrent : t.current = s.current := by
    rcases he.current_cases with hc | ⟨rfl, -⟩ | ⟨v, rfl, -⟩ | ⟨d', bytes, rfl, -⟩
    · exact hc
    all_goals simp at hi
  refine ⟨hcfg, htable, hcheck, hcurrent, hinputs, hmemory, State.memRead_of_memory hmemory, he.adds_one_response, ?_⟩
  rcases he.fault_cases with hfault | ⟨-, hcan, hfault⟩
  · exact .inl hfault
  · refine .inr ⟨?_, hfault⟩
    rcases hi with rfl | rfl | rfl | rfl | rfl | rfl | rfl | rfl | rfl | rfl <;> simp [canFault] at hcan ⊢

/-- Settles O26: a command that does not leave `current` alone is one of its three writers. -/
theorem onlyWritersChangeCurrent : Obligations.OnlyWritersChangeCurrent :=
  fun _ _ _ h hne => (exec_effect h).2.current_cases.resolve_left hne

end Sys2Proof.Machine
end

section
/-! PROOFS. What construction returns (10_state R50, 70_reset_and_hazards R270). -/

namespace Sys2Proof.Machine

/-- Construction returns an engine exactly when the configuration is legal and passes its self-test, and then that engine
is `State.afterConstruction`. -/
theorem construct_eq_ok_iff {cfg : Config} {s : State} :
    construct cfg = .ok s ↔
      legalConfig cfg ∧ selftestFails cfg (computeCheck cfg (buildTable cfg)) = false ∧
        State.afterConstruction cfg = s := by
  rw [← validate_eq_none_iff]
  have hcheck : (State.afterConstruction cfg).check = computeCheck cfg (buildTable cfg) := rfl
  simp only [construct, hcheck]
  cases validate cfg with
  | some e => simp
  | none => cases selftestFails cfg (computeCheck cfg (buildTable cfg)) <;> simp

/-- RESET of an engine without a fault (43_engine R191). -/
theorem exec_reset_of_unfaulted {s : State} (h : s.fault = none) :
    exec .reset s = .next ((s.setCurrent (correctedInitial s.cfg)).respond .nothing) :=
  State.stepTo_of_unfaulted h _

/-- Settles O36: each field is the one `State.afterConstruction` writes, and RESET writes `CI` over any value. -/
theorem constructedState : Obligations.ConstructedState := by
  intro cfg s h
  obtain ⟨-, -, rfl⟩ := construct_eq_ok_iff.1 h
  exact ⟨rfl, rfl, rfl, rfl, rfl, fun _ => exec_reset_of_unfaulted rfl⟩

end Sys2Proof.Machine
end

section
/-! PROOFS. Framing a stream (20_memory R72-R75): one equation per case of each form. -/

namespace Sys2Proof.Machine

/-- A range that begins past its end (20_memory R72), whatever the container holds. -/
theorem frameRange_of_stop_lt {start stop : Nat} (h : stop < start) (bytes : List Byte) :
    frameRange bytes start stop = .error ⟨.rangeOrder, start⟩ :=
  if_pos h

/-- A range in order that ends past its container (20_memory R72). -/
theorem frameRange_of_length_lt {bytes : List Byte} {start stop : Nat} (h : start ≤ stop) (hlen : bytes.length < stop) :
    frameRange bytes start stop = .error ⟨.rangeBounds, stop⟩ :=
  (if_neg (Nat.not_lt.2 h)).trans (if_pos hlen)

/-- A range in order inside its container (20_memory R72). -/
theorem frameRange_of_le {bytes : List Byte} {start stop : Nat} (h : start ≤ stop) (hlen : stop ≤ bytes.length) :
    frameRange bytes start stop = .ok ((bytes.drop start).take (stop - start)) :=
  (if_neg (Nat.not_lt.2 h)).trans (if_neg (Nat.not_lt.2 hlen))

/-- A range up to the end of its container is what remains after its first `start` bytes (20_memory R73, R74). -/
theorem frameRange_to_length {bytes : List Byte} {start : Nat} (h : start ≤ bytes.length) :
    frameRange bytes start bytes.length = .ok (bytes.drop start) := by
  rw [frameRange_of_le h le_rfl, List.take_of_length_le (by simp)]

/-- An offset past the end of its container (20_memory R74). -/
theorem frameOffset_of_length_lt {bytes : List Byte} {off : Nat} (h : bytes.length < off) :
    frameOffset bytes off = .error ⟨.rangeBounds, off⟩ :=
  if_pos h

/-- An offset inside its container is a range up to the end (20_memory R74). -/
theorem frameOffset_of_le {bytes : List Byte} {off : Nat} (h : off ≤ bytes.length) :
    frameOffset bytes off = frameRange bytes off bytes.length :=
  if_neg (Nat.not_lt.2 h)

/-- An offset with a length is a range in every case: its own bounds check answers what the range's does, since such a range
is always in order (20_memory R75). -/
theorem frameOfflen_eq_frameRange (bytes : List Byte) (off n : Nat) :
    frameOfflen bytes off n = frameRange bytes off (off + n) := by
  unfold frameOfflen
  split
  · next h => exact (frameRange_of_length_lt (Nat.le_add_right off n) h).symm
  · rfl

/-- A byte inside its container exists (20_memory R62). -/
theorem State.memRead_isSome {s : State} {c : Container} {p : Nat} :
    (s.memRead c p).isSome = true ↔ p < (s.container c).length := by
  simp [State.memRead]

/-- Settles O18: the three cases of R72 in order; byte `k` of the range is the container's byte `begin + k`. -/
theorem rangeFraming : Obligations.RangeFraming := by
  intro s c b e
  refine ⟨fun h => frameRange_of_stop_lt h _, fun h hlen => frameRange_of_length_lt h hlen, fun h hlen => ?_⟩
  refine ⟨_, frameRange_of_le h hlen, ?_, fun k hk => ⟨?_, ?_⟩⟩
  · rw [List.length_take_of_le]
    rw [List.length_drop]
    omega
  · rw [List.getElem?_take_of_lt hk, List.getElem?_drop, State.memRead]
  · exact State.memRead_isSome.2 (by omega)

/-- Settles O19: both forms are ranges up to the container's end. -/
theorem wholeAndOffsetFraming : Obligations.WholeAndOffsetFraming := by
  intro s c off
  exact ⟨rfl, frameRange_to_length (Nat.zero_le _), fun h => frameOffset_of_length_lt h,
    fun h => ⟨frameOffset_of_le h, (frameOffset_of_le h).trans (frameRange_to_length h)⟩⟩

/-- Settles O20: the form is the range `off .. off + n`, which is never out of order. -/
theorem offlenFraming : Obligations.OfflenFraming := by
  intro s c off n
  have hrange : s.frame (.offlen c off n) = s.frame (.range c off (off + n)) := frameOfflen_eq_frameRange _ off n
  have horder : off ≤ off + n := Nat.le_add_right off n
  refine ⟨hrange, fun hlen => hrange.trans (frameRange_of_length_lt horder hlen), fun hlen => ?_⟩
  have hok := hrange.trans (frameRange_of_le horder hlen)
  rwa [Nat.add_sub_cancel_left] at hok

end Sys2Proof.Machine
end

section
/-! PROOFS. The commands other than RESET, SET and COMPUTE read no mutable state of the engine (20_memory R81). -/

namespace Sys2Proof.Machine

/-- The converse of `exec_effect`: in an engine without a fault, each effect is what its command does. -/
theorem ExecEffect.exec_eq {i : Instr} {s t : State} (h : ExecEffect s i t) (hf : s.fault = none) :
    exec i s = .next t := by
  have ends : ∀ u, s.stepTo u = .next u := State.stepTo_of_unfaulted hf
  cases h with
  | setRange v hv => simp [exec, execSet, hv, ends]
  | set v hv => simp [exec, execSet, Nat.not_lt.2 hv, ends]
  | computeFault d f hd | compute d bytes hd => simp [exec, execCompute, hd, ends]
  | cstaticFault d f hd | cstatic d bytes hd => simp [exec, execCstatic, State.answer, hd, ends]
  | checkFault hs | check hs => simp [exec, execRdparCheck, State.answerIfSelftest, State.answer, hs, ends, encodeWord]
  | expectedFault hs | expected hs =>
    simp [exec, execRdparExpected, State.answerIfSelftest, State.answer, hs, ends, encodeWord]
  | _ => exact ends _

/-- The effect of a command other than RESET, SET and COMPUTE is the same, response included, whatever `current`, the pending
actions and the earlier responses are. -/
theorem ExecEffect.independent_of_current {i : Instr} {s t : State} (h : ExecEffect s i t)
    (hreset : i ≠ .reset) (hset : ∀ v, i ≠ .set v) (hcompute : ∀ d, i ≠ .compute d)
    (c : Nat) (l : List HostAction) (rs : List Response) :
    ∃ r, t.responses = s.responses ++ [r] ∧
      ExecEffect { s with current := c, inputs := l, responses := rs } i
        { t with current := c, inputs := l, responses := rs ++ [r] } := by
  have framed {d : Framing} : { s with current := c, inputs := l, responses := rs }.frame d = s.frame d :=
    State.frame_of_memory rfl d
  cases h with
  | reset => exact absurd rfl hreset
  | setRange v | set v => exact absurd rfl (hset v)
  | computeFault d | compute d => exact absurd rfl (hcompute d)
  | cstaticFault d f hd => exact ⟨_, rfl, .cstaticFault d f (framed.trans hd)⟩
  | cstatic d bytes hd => exact ⟨_, rfl, .cstatic d bytes (framed.trans hd)⟩
  | checkFault hs => exact ⟨_, rfl, .checkFault hs⟩
  | expectedFault hs => exact ⟨_, rfl, .expectedFault hs⟩
  | rdtab idx => exact ⟨_, rfl, .rdtab idx⟩
  | width => exact ⟨_, rfl, .width⟩
  | poly => exact ⟨_, rfl, .poly⟩
  | init => exact ⟨_, rfl, .init⟩
  | xorout => exact ⟨_, rfl, .xorout⟩
  | refin => exact ⟨_, rfl, .refin⟩
  | refout => exact ⟨_, rfl, .refout⟩
  | check hs => exact ⟨_, rfl, .check hs⟩
  | expected hs => exact ⟨_, rfl, .expected hs⟩

/-- Settles O31: the second engine is the first with another `current`, other pending actions and other earlier responses. -/
theorem pureCommandsReadNoMutableState : Obligations.PureCommandsReadNoMutableState := by
  intro i s u t hreset hset hcompute hcfg htable hcheck hmemory hfault h
  obtain ⟨hs, he⟩ := exec_effect h
  obtain ⟨r, hr, hu⟩ := he.independent_of_current hreset hset hcompute u.current u.inputs u.responses
  have hue : u = { s with current := u.current, inputs := u.inputs, responses := u.responses } := by
    simp only [← hcfg, ← htable, ← hcheck, ← hmemory, hs.trans hfault.symm]
  rw [← hue] at hu
  exact ⟨_, r, hu.exec_eq hfault, rfl, hr, rfl⟩

end Sys2Proof.Machine
end

section
/-! PROOFS. A fold reads the table once per byte, inside its 256 entries (42_register_update R178). -/

namespace Sys2Proof.Machine

/-- The index of the reflected path is a byte. -/
theorem indexReflected_lt (c : Nat) (b : Byte) : indexReflected c b < 256 :=
  Nat.xor_lt_two_pow (n := 8) b.isLt (Nat.and_lt_two_pow c (by decide))

/-- The index of the narrow path is a byte: a `W`-bit register shifted to the top of 8 bits. -/
theorem indexNarrow_lt {w c : Nat} (hw : w ≤ 8) (hc : c < 2 ^ w) (b : Byte) : indexNarrow w c b < 256 := by
  refine Nat.xor_lt_two_pow (n := 8) b.isLt ?_
  calc c <<< (8 - w) = c * 2 ^ (8 - w) := Nat.shiftLeft_eq _ _
    _ < 2 ^ w * 2 ^ (8 - w) := Nat.mul_lt_mul_of_pos_right hc (Nat.two_pow_pos _)
    _ = 2 ^ 8 := by rw [← pow_add, Nat.add_sub_cancel' hw]

/-- The index of the wide path is a byte: the top 8 bits of a `W`-bit register. -/
theorem indexWide_lt {w c : Nat} (hw : 8 ≤ w) (hc : c < 2 ^ w) (b : Byte) : indexWide w c b < 256 := by
  refine Nat.xor_lt_two_pow (n := 8) b.isLt ?_
  rw [Nat.shiftRight_eq_div_pow]
  exact Nat.div_lt_of_lt_mul (by rwa [← pow_add, Nat.sub_add_cancel hw])

/-- An update of a `W`-bit register reads inside the table, whichever path the configuration fixes (20_memory R61). -/
theorem updateIndex_lt (cfg : Config) {c : Nat} (hc : c < 2 ^ cfg.width) (b : Byte) : updateIndex cfg c b < 256 := by
  unfold updateIndex
  split
  · exact indexReflected_lt c b
  · split
    · next hw => exact indexNarrow_lt hw.le hc b
    · next hw => exact indexWide_lt (Nat.not_lt.1 hw) hc b

/-- One table read per byte (70_reset_and_hazards R282). -/
theorem foldReads_length (cfg : Config) (table : List Nat) (c : Nat) (s : List Byte) :
    (foldReads cfg table c s).length = s.length := by
  induction s generalizing c with
  | nil => rfl
  | cons b s ih => simp [foldReads, ih]

/-- Every read of a fold lies inside the table, since each update leaves a `W`-bit register (60_exceptions R254). -/
theorem foldReads_lt (cfg : Config) (table : List Nat) {c : Nat} (hc : c < 2 ^ cfg.width) (s : List Byte) :
    ∀ i ∈ foldReads cfg table c s, i < 256 := by
  induction s generalizing c with
  | nil => simp [foldReads]
  | cons b s ih => exact List.forall_mem_cons.2 ⟨updateIndex_lt cfg hc b, ih (update_lt cfg table c b)⟩

/-- Settles O51: the count and the range of the reads, by induction on the stream, and the width of the fold. -/
theorem foldReadsOncePerByte : Obligations.FoldReadsOncePerByte :=
  fun cfg table c s _ hc => ⟨foldReads_length cfg table c s, foldReads_lt cfg table hc s, fold_lt cfg table c s hc⟩

end Sys2Proof.Machine
end

section
/-! PROOFS. The decoder and the encoder against the opcode map (30_encoding R95-R103). -/

namespace Sys2Proof

/-! ### Fields of a command word -/

/-- A field is as wide as its bits (00_scope R16). -/
theorem field_lt (w : CmdWord) (hi lo : Nat) : field w hi lo < 2 ^ (hi - lo + 1) :=
  Nat.mod_lt _ (Nat.two_pow_pos _)

/-- A word is its opcode above its operand field (30_encoding R91). -/
theorem toNat_eq_opcode_operand (w : CmdWord) : w.toNat = 0x1000 * field w 15 12 + field w 11 0 := by
  have := w.isLt
  simp only [field]
  omega

/-- The operand field of format T (30_encoding R95). -/
theorem operand_eq_index (w : CmdWord) : field w 11 0 = 0x100 * field w 11 8 + field w 7 0 := by
  simp only [field]
  omega

/-- The operand field of format P (30_encoding R95). -/
theorem operand_eq_selector (w : CmdWord) : field w 11 0 = 8 * field w 11 3 + field w 2 0 := by
  simp only [field]
  omega

/-- The word of RDTAB carries the index below its opcode; the sum does not overflow 16 bits (30_encoding R96). -/
theorem toNat_encodeWord_rdtab (idx : BitVec 8) : (encodeWord (.rdtab idx)).toNat = 0x5000 + idx.toNat := by
  have := idx.isLt
  simp only [encodeWord, BitVec.toNat_ofNat]
  omega

/-- The word of RDPAR carries the selector below its opcode (30_encoding R96, R98). -/
theorem toNat_encodeWord_parameterCommand {sel : Nat} (h : sel < 8) :
    (encodeWord (parameterCommand sel)).toNat = 0x6000 + sel := by
  interval_cases sel <;> rfl

/-- RDPAR carries no operand beside its word, whatever it selects (30_encoding R100). -/
theorem parameterCommand_no_operands (sel : Nat) :
    encodeData (parameterCommand sel) = none ∧ encodeStream (parameterCommand sel) = none := by
  unfold parameterCommand
  split <;> exact ⟨rfl, rfl⟩

/-! ### Legal transactions -/

/-- The legal transactions of 30_encoding R99 and R100; `decodes_iff_legal` ties it to the decoder. -/
abbrev Command.Legal (c : Command) : Prop :=
  (1 ≤ field c.word 15 12 ∧ field c.word 15 12 ≤ 6) ∧
  (field c.word 15 12 ≤ 4 → field c.word 11 0 = 0) ∧
  (field c.word 15 12 = 5 → field c.word 11 8 = 0) ∧
  (field c.word 15 12 = 6 → field c.word 11 3 = 0) ∧
  (c.data.isSome = true ↔ field c.word 15 12 = 2) ∧
  (c.stream.isSome = true ↔ field c.word 15 12 = 3 ∨ field c.word 15 12 = 4)

/-- A row without operands refuses the word itself, or there is no reserved bit and no operand. -/
theorem decodeBare_cases (c : Command) (reserved : Nat) (i : Instr) :
    (∃ why, decodeBare c reserved i = .illegal why c.word) ∨ reserved = 0 ∧ c.data = none ∧ c.stream = none := by
  unfold decodeBare
  split
  · exact .inl ⟨_, rfl⟩
  · next hr =>
    split
    · next hd hs => exact .inr ⟨not_not.1 hr, hd, hs⟩
    · exact .inl ⟨_, rfl⟩

/-- SET's row refuses the word itself, or there is no reserved bit and `DATA` alone. -/
theorem decodeWithData_cases (c : Command) (reserved : Nat) (i : Nat → Instr) :
    (∃ why, decodeWithData c reserved i = .illegal why c.word) ∨
      reserved = 0 ∧ c.data.isSome = true ∧ c.stream = none := by
  unfold decodeWithData
  split
  · exact .inl ⟨_, rfl⟩
  · next hr =>
    split
    · next v hd hs => exact .inr ⟨not_not.1 hr, by simp [hd], hs⟩
    · exact .inl ⟨_, rfl⟩

/-- The rows of COMPUTE and CSTATIC refuse the word itself, or there is no reserved bit and `STREAM` alone. -/
theorem decodeWithStream_cases (c : Command) (reserved : Nat) (i : Framing → Instr) :
    (∃ why, decodeWithStream c reserved i = .illegal why c.word) ∨
      reserved = 0 ∧ c.data = none ∧ c.stream.isSome = true := by
  unfold decodeWithStream
  split
  · exact .inl ⟨_, rfl⟩
  · next hr =>
    split
    · next d hd hs => exact .inr ⟨not_not.1 hr, hd, by simp [hs]⟩
    · exact .inl ⟨_, rfl⟩

/-- Decoding refuses the word itself, or the transaction is legal: each row of R103 checks its format and its operands. -/
theorem decode_illegal_or_legal (c : Command) : (∃ why, decode c = .illegal why c.word) ∨ c.Legal := by
  unfold decode
  split
  · next hop =>
    exact (decodeBare_cases c _ _).imp_right fun ⟨hf, hd, hs⟩ => by simp [Command.Legal, hop, hf, hd, hs]
  · next hop =>
    exact (decodeWithData_cases c _ _).imp_right fun ⟨hf, hd, hs⟩ => by simp [Command.Legal, hop, hf, hd, hs]
  · next hop =>
    exact (decodeWithStream_cases c _ _).imp_right fun ⟨hf, hd, hs⟩ => by simp [Command.Legal, hop, hf, hd, hs]
  · next hop =>
    exact (decodeWithStream_cases c _ _).imp_right fun ⟨hf, hd, hs⟩ => by simp [Command.Legal, hop, hf, hd, hs]
  · next hop =>
    exact (decodeBare_cases c _ _).imp_right fun ⟨hf, hd, hs⟩ => by simp [Command.Legal, hop, hf, hd, hs]
  · next hop =>
    exact (decodeBare_cases c _ _).imp_right fun ⟨hf, hd, hs⟩ => by simp [Command.Legal, hop, hf, hd, hs]
  · exact .inl ⟨_, rfl⟩

/-- A command has the transaction whose word and operands it encodes to. -/
theorem encode_eq_of_parts {i : Instr} {c : Command} (hword : (encodeWord i).toNat = c.word.toNat)
    (hdata : encodeData i = c.data) (hstream : encodeStream i = c.stream) : encode i = c :=
  congr (congr (congrArg Command.mk (BitVec.eq_of_toNat_eq hword)) hdata) hstream

/-- A legal transaction is the transaction of a command: its opcode and the fields that are not reserved give the word, and
exactly the operands of that opcode are there (30_encoding R101). -/
theorem exists_encode_of_legal {c : Command} (h : c.Legal) : ∃ i, encode i = c := by
  obtain ⟨⟨hlo, hhi⟩, hN, hT, hP, hdata, hstream⟩ := h
  have hword := toNat_eq_opcode_operand c.word
  have hbare : field c.word 15 12 ≠ 2 → none = c.data :=
    fun hne => (Option.not_isSome_iff_eq_none.1 (mt hdata.1 hne)).symm
  have hplain : field c.word 15 12 ≠ 3 → field c.word 15 12 ≠ 4 → none = c.stream :=
    fun h3 h4 => (Option.not_isSome_iff_eq_none.1 (mt hstream.1 (by simp [h3, h4]))).symm
  obtain hop | hop | hop | hop | hop | hop : field c.word 15 12 = 1 ∨ field c.word 15 12 = 2 ∨ field c.word 15 12 = 3 ∨
      field c.word 15 12 = 4 ∨ field c.word 15 12 = 5 ∨ field c.word 15 12 = 6 := by omega
  · exact ⟨.reset, encode_eq_of_parts (by change 0x1000 = _; omega) (hbare (by omega)) (hplain (by omega) (by omega))⟩
  · obtain ⟨v, hv⟩ := Option.isSome_iff_exists.1 (hdata.2 hop)
    exact ⟨.set v, encode_eq_of_parts (by change 0x2000 = _; omega) hv.symm (hplain (by omega) (by omega))⟩
  · obtain ⟨d, hd⟩ := Option.isSome_iff_exists.1 (hstream.2 (.inl hop))
    exact ⟨.compute d, encode_eq_of_parts (by change 0x3000 = _; omega) (hbare (by omega)) hd.symm⟩
  · obtain ⟨d, hd⟩ := Option.isSome_iff_exists.1 (hstream.2 (.inr hop))
    exact ⟨.cstatic d, encode_eq_of_parts (by change 0x4000 = _; omega) (hbare (by omega)) hd.symm⟩
  · have hoperand := operand_eq_index c.word
    have hidx := Nat.mod_eq_of_lt (field_lt c.word 7 0)
    refine ⟨.rdtab (BitVec.ofNat 8 (field c.word 7 0)), encode_eq_of_parts ?_ (hbare (by omega))
      (hplain (by omega) (by omega))⟩
    rw [toNat_encodeWord_rdtab, BitVec.toNat_ofNat]
    omega
  · have hoperand := operand_eq_selector c.word
    obtain ⟨hparData, hparStream⟩ := parameterCommand_no_operands (field c.word 2 0)
    refine ⟨parameterCommand (field c.word 2 0), encode_eq_of_parts ?_ (hparData.trans (hbare (by omega)))
      (hparStream.trans (hplain (by omega) (by omega)))⟩
    rw [toNat_encodeWord_parameterCommand (field_lt c.word 2 0)]
    omega

/-! ### The round trips -/

/-- Settles O1: each word written out shows its own opcode, no reserved bit and its own operand; RDTAB's shows its index. -/
theorem decodeEncodeRoundTrip : Obligations.DecodeEncodeRoundTrip := by
  intro i
  cases i with
  | rdtab idx =>
    have hidx := idx.isLt
    have hword := toNat_encodeWord_rdtab idx
    have hop : field (encodeWord (.rdtab idx)) 15 12 = 5 := by simp only [field, hword]; omega
    have hreserved : field (encodeWord (.rdtab idx)) 11 8 = 0 := by simp only [field, hword]; omega
    have hindex : field (encodeWord (.rdtab idx)) 7 0 = idx.toNat := by simp only [field, hword]; omega
    simp [decode, decodeBare, encode, encodeData, encodeStream, hop, hreserved, hindex]
  | set v => simp [decode, decodeWithData, encode, encodeWord, encodeData, encodeStream, field]
  | compute d | cstatic d => simp [decode, decodeWithStream, encode, encodeWord, encodeData, encodeStream, field]
  | _ => rfl

/-- The transactions that decode to a command are the legal ones. -/
theorem Command.decodes_iff_legal {c : Command} : (∃ i, decode c = .command i) ↔ c.Legal := by
  constructor
  · rintro ⟨i, hi⟩
    refine (decode_illegal_or_legal c).resolve_left ?_
    rintro ⟨why, hwhy⟩
    cases hi.symm.trans hwhy
  · intro h
    obtain ⟨i, rfl⟩ := exists_encode_of_legal h
    exact ⟨i, decodeEncodeRoundTrip i⟩

/-- Settles O3: legality is what decoding checks, and a legal transaction is some command's own. -/
theorem decodesExactlyLegalTransactions : Obligations.DecodesExactlyLegalTransactions :=
  fun _ => Command.decodes_iff_legal

/-- Settles O2: the transaction is the encoding of some command, which by O1 is the one it decodes to. -/
theorem encodeDecodeRoundTrip : Obligations.EncodeDecodeRoundTrip := by
  intro c i h
  obtain ⟨j, rfl⟩ := exists_encode_of_legal (Command.decodes_iff_legal.1 ⟨i, h⟩)
  cases h.symm.trans (decodeEncodeRoundTrip j)
  rfl

/-- Settles O4: the seven words are encodings (O1), and the six transactions fail the test of legality (O3). -/
theorem decodesSpecWords : Obligations.DecodesSpecWords := by
  have refused {c : Command} (h : ¬ c.Legal) (i : Instr) : decode c ≠ .command i :=
    fun hi => h (Command.decodes_iff_legal.1 ⟨i, hi⟩)
  exact ⟨decodeEncodeRoundTrip .reset, decodeEncodeRoundTrip (.set 5), decodeEncodeRoundTrip (.compute (.whole (.named 0))),
    decodeEncodeRoundTrip (.cstatic (.range (.named 0) 2 5)), decodeEncodeRoundTrip (.rdtab 255#8),
    decodeEncodeRoundTrip .rdparWidth, decodeEncodeRoundTrip .rdparExpected, refused (by decide), refused (by decide),
    refused (by decide), refused (by decide), refused (by decide), refused (by decide)⟩

end Sys2Proof
end

section
/-! PROOFS. A command the host issues: the fault of an illegal transaction, and the one response (30_encoding R94). -/

namespace Sys2Proof.Machine

/-- A transaction that does not decode takes the fault of its word (60_exceptions R249). -/
theorem step_of_decode_illegal {s : State} {c : Command} {rest : List HostAction} {why : IllegalCause} {word : CmdWord}
    (hf : s.fault = none) (hin : s.inputs = .issue c :: rest) (hd : decode c = .illegal why word) :
    step s = .next ((s.withInputs rest).raise ⟨.illegalWord, word.toNat⟩) := by
  simp only [step, advance, hin, hostStep, issueCommand, hd, execIllegal]
  exact State.stepTo_of_unfaulted hf _

/-- Settles O6: each of the nine ways breaks one clause of legality, so the transaction does not decode. -/
theorem illegalTransactionsFault : Obligations.IllegalTransactionsFault := by
  refine ⟨rfl, fun s c rest hf hin hillegal => ?_⟩
  have hc : ¬ c.Legal := by
    rintro ⟨⟨hlo, hhi⟩, hN, hT, hP, hdata, hstream⟩
    rcases hillegal with h | h | ⟨hop, h⟩ | ⟨hop, h⟩ | ⟨hop, h⟩ | ⟨hop, h⟩ | ⟨hop, h⟩ | ⟨hop, h⟩ | ⟨h3, h4, h⟩
    · omega
    · omega
    · exact h (hN hop)
    · exact h (hT hop)
    · exact h (hP hop)
    · simpa [h] using hdata.2 hop
    · exact hop (hdata.1 (Option.isSome_iff_ne_none.2 h))
    · simpa [h] using hstream.2 hop
    · exact (hstream.1 (Option.isSome_iff_ne_none.2 h)).elim h3 h4
  obtain ⟨why, hd⟩ := (decode_illegal_or_legal c).resolve_right hc
  exact step_of_decode_illegal hf hin hd

/-- The one response of a command, by its form (30_encoding R94): `error` of the fault taken, `none` for RESET and SET, a value
for every other command. -/
theorem ExecEffect.response_cases {s t : State} {i : Instr} (h : ExecEffect s i t) :
    (∃ f, t.fault = some f ∧ t.responses = s.responses ++ [.error f.code]) ∨
    (t.fault = s.fault ∧ (i = .reset ∨ ∃ v, i = .set v) ∧ t.responses = s.responses ++ [.nothing]) ∨
    (t.fault = s.fault ∧ i ≠ .reset ∧ (∀ v, i ≠ .set v) ∧ ∃ v, t.responses = s.responses ++ [.value v]) := by
  cases h with
  | setRange | computeFault | cstaticFault | checkFault | expectedFault => exact .inl ⟨_, rfl, rfl⟩
  | reset => exact .inr (.inl ⟨rfl, .inl rfl, rfl⟩)
  | set v => exact .inr (.inl ⟨rfl, .inr ⟨v, rfl⟩, rfl⟩)
  | _ => exact .inr (.inr ⟨rfl, nofun, nofun, _, rfl⟩)

/-- Settles O30: an illegal transaction answers its fault, a decoded one as its command does. -/
theorem oneResponsePerCommand : Obligations.OneResponsePerCommand := by
  intro s t c rest hin h
  obtain ⟨hf, he⟩ := step_effect h
  cases he with
  | idle hin' => cases hin.symm.trans hin'
  | supply n bytes rest' hin' => cases hin.symm.trans hin'
  | illegal c' rest' why word hin' hd =>
    exact ⟨.error .illegalWord, rfl, fun f hf => by cases hf; rfl, nofun, nofun⟩
  | command c' rest' i _ hin' hd he =>
    cases hin.symm.trans hin'
    rcases he.response_cases with ⟨f, hft, hr⟩ | ⟨hft, hi, hr⟩ | ⟨hft, hreset, hset, v, hr⟩
    · exact ⟨_, hr, by simp [hft], by simp [hft], by simp [hft]⟩
    · have hft := hft.trans hf
      refine ⟨_, hr, by simp [hft], fun _ _ => rfl, fun _ hreset hset => ?_⟩
      rcases hi with rfl | ⟨v, rfl⟩
      · exact absurd hd hreset
      · exact absurd hd (hset v)
    · have hft := hft.trans hf
      exact ⟨_, hr, by simp [hft], by simp [hd, hreset, hset], fun _ _ _ => ⟨v, rfl⟩⟩

end Sys2Proof.Machine
end

section
/-! PROOFS. The bit reflector (40_bit_reflector R131 to R136): how `reverseLow` reads a flipped bit, its fixed points, and how
it goes through itself, an XOR and a cut of the register in two. -/

namespace Sys2Proof.Machine

/-- The loop `r[n-1-k] = v[k]` of R131 and R132. -/
theorem reverseLow_testBit_flip {n k : Nat} (v : Nat) (hk : k < n) :
    (reverseLow n v).testBit (n - 1 - k) = v.testBit k := by
  rw [reverseLow_testBit]
  simp [show n - 1 - k < n by omega, show n - 1 - (n - 1 - k) = k by omega]

/-- All ones are a fixed point: in range, both sides have every bit set. -/
theorem reverseLow_two_pow_sub_one (n : Nat) : reverseLow n (2 ^ n - 1) = 2 ^ n - 1 := by
  refine Nat.eq_of_testBit_eq fun k => ?_
  simp only [reverseLow_testBit, Nat.testBit_two_pow_sub_one]
  by_cases hk : k < n
  · simp [hk, show n - 1 - k < n by omega]
  · simp [hk]

/-- One bit is its own reversal. -/
theorem reverseLow_one (v : Nat) : reverseLow 1 v = v % 2 := by
  simp [reverseLow]

/-- Reversing twice keeps the low `n` bits and drops the others (R134). -/
theorem reverseLow_reverseLow (n v : Nat) : reverseLow n (reverseLow n v) = v % 2 ^ n := by
  refine Nat.eq_of_testBit_eq fun k => ?_
  rw [reverseLow_testBit, Nat.testBit_mod_two_pow]
  by_cases hk : k < n
  · rw [reverseLow_testBit_flip v hk]
  · simp [hk]

/-- Each bit of the reversal is one bit of the value, so the reversal goes through XOR (R136). -/
theorem reverseLow_xor (n a b : Nat) : reverseLow n (a ^^^ b) = reverseLow n a ^^^ reverseLow n b := by
  refine Nat.eq_of_testBit_eq fun k => ?_
  simp only [reverseLow_testBit, Nat.testBit_xor]
  by_cases hk : k < n <;> simp [hk]

/-- The reversal of a value cut in two: the low `m` bits land reversed on top, the other `n` reversed below them. -/
theorem reverseLow_add (m n v : Nat) :
    reverseLow (m + n) v = (reverseLow m v <<< n) ^^^ reverseLow n (v / 2 ^ m) := by
  refine Nat.eq_of_testBit_eq fun k => ?_
  simp only [reverseLow_testBit, Nat.testBit_xor, Nat.testBit_shiftLeft, Nat.testBit_div_two_pow]
  by_cases hk : k < n
  · simp [hk, show ¬ n ≤ k by omega, show k < m + n by omega, show n - 1 - k + m = m + n - 1 - k by omega]
  · simp [hk, show n ≤ k by omega, show k - n < m ↔ k < m + n by omega, show m - 1 - (k - n) = m + n - 1 - k by omega]

/-- Settles O37: the bits, the bound, the fixed points and `len = 1` are those of `reverseLow`. -/
theorem reflectByteReverses : Obligations.ReflectByteReverses := by
  intro b len _ _ _
  refine ⟨fun k hk => reverseLow_testBit_flip b hk, reverseLow_lt len b, (reverseLow_mod len b).symm, reverseLow_zero len,
    reverseLow_two_pow_sub_one len, ?_⟩
  rintro rfl
  exact reverseLow_one b

/-- Settles O38: as for the byte; at `W = 1` the register's one bit is the value itself. -/
theorem reflectRegisterReverses : Obligations.ReflectRegisterReverses := by
  intro w v _ hv
  refine ⟨fun k hk => reverseLow_testBit_flip v hk, reverseLow_lt w v, ?_, reverseLow_zero w, reverseLow_two_pow_sub_one w⟩
  rintro rfl
  exact (reverseLow_one v).trans (Nat.mod_eq_of_lt hv)

/-- Settles O40: reversing twice keeps the low bits, which are all the bits of a value in range. -/
theorem reflectionIsInvolution : Obligations.ReflectionIsInvolution :=
  ⟨fun w v _ hv => (reverseLow_reverseLow w v).trans (Nat.mod_eq_of_lt hv),
    fun b len _ _ hb => (reverseLow_reverseLow len b).trans (Nat.mod_eq_of_lt hb)⟩

/-- Settles O41: both reflections are `reverseLow`, which goes through XOR. -/
theorem reflectionIsLinear : Obligations.ReflectionIsLinear :=
  ⟨reverseLow_xor, reverseLow_xor⟩

end Sys2Proof.Machine
end

section
/-! PROOFS. The byte-wise composition (40_bit_reflector R133): peeling one byte off the bottom of the register at a time. -/

namespace Sys2Proof.Machine

/-- The XOR of the first `q` bytes of the register, each reflected at its own offset: the composition's loop after `q` turns. -/
def reflectedBytes (w v q : Nat) : Nat :=
  (List.range q).foldl (fun acc k => acc ^^^ (reflectByte (v / 2 ^ (8 * k) % 2 ^ 8) 8 <<< (w - 8 - 8 * k))) 0

/-- No turn of the loop leaves 0. -/
@[simp] theorem reflectedBytes_zero (w v : Nat) : reflectedBytes w v 0 = 0 := rfl

/-- Turn `q` adds byte `q`; that it is masked to 8 bits does not matter to its reflection. -/
theorem reflectedBytes_succ (w v q : Nat) :
    reflectedBytes w v (q + 1) = reflectedBytes w v q ^^^ (reverseLow 8 (v / 2 ^ (8 * q)) <<< (w - 8 - 8 * q)) := by
  simp only [reflectedBytes, List.range_succ, List.foldl_append, List.foldl_cons, List.foldl_nil, reflectByte, reverseLow_mod]

/-- The composition is the loop over the full bytes and the partial byte; without a partial byte, the latter is 0. -/
theorem reflectRegisterBytewise_eq (w v : Nat) :
    reflectRegisterBytewise w v = reflectedBytes w v (w / 8) ^^^ reverseLow (w % 8) (v / 2 ^ (8 * (w / 8))) := by
  unfold reflectRegisterBytewise reflectedBytes
  rcases Nat.eq_zero_or_pos (w % 8) with hr | hr
  · simp [hr, reverseLow]
  · simp [hr, reflectByte, reverseLow_mod]

/-- The loop's invariant: after `q` full bytes, what is missing is the reversal of the bits above them. -/
theorem reverseLow_eq_reflectedBytes_xor {w q : Nat} (v : Nat) (hq : 8 * q ≤ w) :
    reverseLow w v = reflectedBytes w v q ^^^ reverseLow (w - 8 * q) (v / 2 ^ (8 * q)) := by
  induction q with
  | zero => simp
  | succ q ih =>
    have rest : reverseLow (w - 8 * q) (v / 2 ^ (8 * q)) =
        (reverseLow 8 (v / 2 ^ (8 * q)) <<< (w - 8 - 8 * q)) ^^^ reverseLow (w - 8 * (q + 1)) (v / 2 ^ (8 * (q + 1))) := by
      rw [show w - 8 * q = 8 + (w - 8 * (q + 1)) by omega, reverseLow_add, Nat.div_div_eq_div_mul, ← pow_add,
        show w - 8 - 8 * q = w - 8 * (q + 1) by omega, mul_add_one]
    rw [ih (by omega), rest, reflectedBytes_succ, Nat.xor_assoc]

/-- Settles O39: the loop's invariant after all `W / 8` full bytes, which leave the `W mod 8` bits of the partial byte. -/
theorem reflectRegisterIsBytewise : Obligations.ReflectRegisterIsBytewise := by
  intro w v _ _
  have hr : w - 8 * (w / 8) = w % 8 := by omega
  rw [reflectRegisterBytewise_eq, ← hr]
  exact reverseLow_eq_reflectedBytes_xor v (Nat.mul_div_le w 8)

end Sys2Proof.Machine
end

section
/-! PROOFS. The table in closed form (41_table_generator R151 to R156): the loop's invariant holds each entry to the bit-serial
register of its index, and linearity and the doubling steps are then facts about that register. -/

namespace Sys2Proof.Machine

/-! ### The bit-serial register fed from zero -/

/-- Zeros fed into a register of zeros leave zeros. -/
@[simp] theorem serialBits_zero (w p n : Nat) : serialBits w p 0 n 0 = 0 := by
  induction n with
  | zero => rfl
  | succ n ih => simpa [serialBits] using ih

/-- Feeding `n + 1` zeros is feeding `n` and then one more. -/
theorem serialBits_zeros_succ (w p n r : Nat) :
    serialBits w p 0 (n + 1) r = serialStep w p (serialBits w p 0 n r) false := by
  induction n generalizing r with
  | zero => simp [serialBits]
  | succ n ih => rw [serialBits, Nat.zero_testBit, ih, serialBits, Nat.zero_testBit]

/-- A leading 0 leaves the register of zeros as it is. -/
theorem serialBits_succ_of_lt {w p n i : Nat} (hi : i < 2 ^ n) : serialBits w p i (n + 1) 0 = serialBits w p i n 0 := by
  rw [serialBits, Nat.testBit_lt_two_pow hi, serialStep_zero]

/-- Leading zeros leave the register of zeros as it is. -/
theorem serialBits_eq_of_lt {w p m n i : Nat} (hi : i < 2 ^ n) (hn : n ≤ m) :
    serialBits w p i m 0 = serialBits w p i n 0 := by
  induction m, hn using Nat.le_induction with
  | base => rfl
  | succ m hm ih => rw [serialBits_succ_of_lt (hi.trans_le (Nat.pow_le_pow_right (by decide) hm)), ih]

/-- A leading 1 makes the polynomial of the register of zeros. The rest of the bits then act on it by linearity. -/
theorem serialBits_two_pow_add {w p n i : Nat} (hi : i < 2 ^ n) :
    serialBits w p (2 ^ n + i) (n + 1) 0 = serialBits w p 0 n p ^^^ serialBits w p i n 0 := by
  have hlow : ∀ k < n, (2 ^ n + i).testBit k = i.testBit k := fun k hk => Nat.testBit_two_pow_add_gt hk i
  have htop : (2 ^ n + i).testBit n = true := by simp [Nat.testBit_two_pow_add_eq, Nat.testBit_lt_two_pow hi]
  have hlinear := serialBits_xor w p n p 0 0 i
  rw [Nat.zero_xor, Nat.xor_zero] at hlinear
  rw [serialBits, htop, serialStep_one, serialBits_congr p hlow, hlinear]

/-- The register of a byte is linear in the byte (41_table_generator R156). -/
theorem serialByte_xor (w p a b : Nat) :
    serialByte w p 0 (a ^^^ b) = serialByte w p 0 a ^^^ serialByte w p 0 b :=
  serialBits_xor w p 8 0 0 a b

/-- The register of the byte 0 is 0. -/
@[simp] theorem serialByte_zero (w p : Nat) : serialByte w p 0 0 = 0 := serialBits_zero w p 8

/-- The register of a power of two is the polynomial with as many zeros fed into it. -/
theorem serialByte_two_pow (w p : Nat) {k : Nat} (hk : k < 8) : serialByte w p 0 (2 ^ k) = serialBits w p 0 k p := by
  have hleading : serialByte w p 0 (2 ^ k) = serialBits w p (2 ^ k) (k + 1) 0 :=
    serialBits_eq_of_lt (Nat.pow_lt_pow_right (by decide) k.lt_succ_self) hk
  have hfirst := serialBits_two_pow_add (w := w) (p := p) (Nat.two_pow_pos k)
  rw [Nat.add_zero, serialBits_zero, Nat.xor_zero] at hfirst
  rw [hleading, hfirst]

/-- The register of the byte 1 is the polynomial. -/
theorem serialByte_one (w p : Nat) : serialByte w p 0 1 = p :=
  serialByte_two_pow w p (k := 0) (by decide)

/-- The register of a byte has `W` bits. -/
theorem serialByte_lt {w p : Nat} (hp : p < 2 ^ w) (i : Nat) : serialByte w p 0 i < 2 ^ w :=
  serialBits_lt hp i 8 0 (Nat.two_pow_pos w)

/-! ### The builder's loop -/

/-- The builder's last turn, taken off the end of its loop. -/
theorem doublingPasses_succ (w p n : Nat) (st : Nat × List Nat) :
    doublingPasses w p (n + 1) st = doublingPass w p (doublingPasses w p n st) := by
  induction n generalizing st with
  | zero => rfl
  | succ n ih => rw [doublingPasses, ih, doublingPasses]

/-- The first step takes `MSB` to the polynomial (41_table_generator R151). -/
theorem serialStep_topBit {w p : Nat} (hw : 1 ≤ w) : serialStep w p (topBit w) false = p := by
  obtain ⟨n, rfl⟩ := Nat.exists_eq_add_of_le' hw
  simp [serialStep, topBit, maskTo, Nat.shiftLeft_eq, pow_succ]

/-- The loop's invariant: after `n` turns `crc` is `MSB` with `n` zeros fed into it, and each of the `2^n` entries written is the
register reached by feeding the `n` bits of its index. -/
theorem doublingPasses_eq {w p : Nat} (hw : 1 ≤ w) (hp : p < 2 ^ w) (n : Nat) :
    doublingPasses w p n (topBit w, [0]) =
      (serialBits w p 0 n (topBit w), (List.range (2 ^ n)).map fun i => serialBits w p i n 0) := by
  induction n with
  | zero => rfl
  | succ n ih =>
    have hcrc : serialBits w p 0 (n + 1) (topBit w) = serialBits w p 0 n p := by
      rw [serialBits, Nat.zero_testBit, serialStep_topBit hw]
    have hlow : (List.range (2 ^ n)).map (fun i => serialBits w p i (n + 1) 0) =
        (List.range (2 ^ n)).map fun i => serialBits w p i n 0 :=
      List.map_congr_left fun i hi => serialBits_succ_of_lt (List.mem_range.1 hi)
    have hhigh : (List.range (2 ^ n)).map (fun i => serialBits w p (2 ^ n + i) (n + 1) 0) =
        (List.range (2 ^ n)).map fun i => serialBits w p 0 n p ^^^ serialBits w p i n 0 :=
      List.map_congr_left fun i hi => serialBits_two_pow_add (List.mem_range.1 hi)
    rw [doublingPasses_succ, ih, doublingPass, ← serialStep_false hp, ← serialBits_zeros_succ, hcrc, pow_succ, mul_two,
      List.range_add, List.map_append, List.map_map, List.map_map, hlow]
    exact congrArg (fun high => (_, _ ++ high)) hhigh.symm

/-- BUILD_BASE in closed form: every entry is the register its index is shifted into (41_table_generator R155). -/
theorem buildBase_eq {w p : Nat} (hw : 1 ≤ w) (hp : p < 2 ^ w) :
    buildBase w p = (List.range 256).map (serialByte w p 0) :=
  congrArg Prod.snd (doublingPasses_eq hw hp 8)

/-- An entry of the base table, read by its index. -/
theorem buildBase_getElem? {w p i : Nat} (hw : 1 ≤ w) (hp : p < 2 ^ w) (hi : i < 256) :
    (buildBase w p)[i]? = some (serialByte w p 0 i) := by
  simp [buildBase_eq hw hp, hi]

/-- BUILD_REFLECTED in closed form: every read it makes of the base table is inside it (41_table_generator R152). -/
theorem buildReflected_eq {w p : Nat} (hw : 1 ≤ w) (hp : p < 2 ^ w) :
    buildReflected w (buildBase w p) =
      (List.range 256).map fun i => reflectRegister w (serialByte w p 0 (reflectByte i 8)) := by
  refine List.map_congr_left fun i _ => ?_
  rw [tableRead, buildBase_getElem? hw hp (reflectByte_lt i), Option.getD_some]

/-! ### The engine's table -/

/-- What entry `i` of the engine's table holds; `buildTable_eq` ties it to the builder. -/
def tableEntry (cfg : Config) (i : Nat) : Nat :=
  if cfg.refin then reflectRegister cfg.width (serialByte cfg.width cfg.poly 0 (reflectByte i 8))
  else serialByte cfg.width cfg.poly 0 i

/-- The engine's table in closed form (41_table_generator R153). -/
theorem buildTable_eq {cfg : Config} (hl : legalConfig cfg) : buildTable cfg = (List.range 256).map (tableEntry cfg) := by
  obtain ⟨hw, -, hp, -, -⟩ := hl
  unfold buildTable tableEntry
  split
  · exact buildReflected_eq hw hp
  · exact buildBase_eq hw hp

/-- An entry of the engine's table, read by its index. -/
theorem buildTable_getElem? {cfg : Config} (hl : legalConfig cfg) {i : Nat} (hi : i < 256) :
    (buildTable cfg)[i]? = some (tableEntry cfg i) := by
  simp [buildTable_eq hl, hi]

/-- Entry 0 is 0 for every configuration (41_table_generator R154). -/
theorem tableEntry_zero (cfg : Config) : tableEntry cfg 0 = 0 := by
  simp [tableEntry, reflectByte, reflectRegister]

/-- Reflection goes through XOR, so the reflected table is linear as the base table is (41_table_generator R156). -/
theorem tableEntry_xor (cfg : Config) (a b : Nat) : tableEntry cfg (a ^^^ b) = tableEntry cfg a ^^^ tableEntry cfg b := by
  unfold tableEntry reflectByte reflectRegister
  split
  · rw [reverseLow_xor, serialByte_xor, reverseLow_xor]
  · exact serialByte_xor _ _ a b

/-- A sum of a power of two and a smaller number has no carry. -/
theorem two_pow_add_eq_xor {k j : Nat} (hj : j < 2 ^ k) : 2 ^ k + j = 2 ^ k ^^^ j := by
  have hor := Nat.two_pow_add_eq_or_of_lt hj 1
  rw [mul_one] at hor
  rw [hor]
  refine Nat.eq_of_testBit_eq fun m => ?_
  rcases eq_or_ne k m with rfl | hm
  · simp [Nat.testBit_lt_two_pow hj]
  · simp [hm]

/-- Settles O42: entries 0 and 1, the doubling step and the XOR completion are facts about the register of each index. -/
theorem baseTableByDoubling : Obligations.BaseTableByDoubling := by
  intro w poly hw hp
  have entry {i : Nat} (hi : i < 256) := buildBase_getElem? hw hp hi
  have two_pow_lt {k : Nat} (hk : k < 8) : 2 ^ k < 256 := Nat.pow_lt_pow_right (by decide) hk
  refine ⟨buildBase_length w poly, ?_, ?_, fun k hk => ⟨_, entry (two_pow_lt (by omega)), ?_⟩,
    fun k j hk hj => ⟨_, _, entry (two_pow_lt hk), entry (hj.trans (two_pow_lt hk)), ?_⟩⟩
  · rw [entry (by decide), serialByte_zero]
  · rw [entry (by decide), serialByte_one]
  · rw [entry (two_pow_lt (by omega)), serialByte_two_pow w poly (by omega), serialByte_two_pow w poly (by omega),
      serialBits_zeros_succ, serialStep_false hp, maskTo]
  · have hsum := two_pow_add_eq_xor hj
    have hlt : 2 ^ k ^^^ j < 256 := Nat.xor_lt_two_pow (n := 8) (two_pow_lt hk) (hj.trans (two_pow_lt hk))
    rw [hsum, entry hlt, serialByte_xor]

/-- Settles O43: the reflected index of entry 0x80 is 1, whose base entry is the polynomial. -/
theorem reflectedTable : Obligations.ReflectedTable := by
  intro cfg hl
  have ⟨hw, _, hp, _, _⟩ := hl
  refine ⟨fun hrefin => by simp [buildTable, hrefin], fun hrefin => ?_⟩
  have entry {i : Nat} (hi : i < 256) : (buildTable cfg)[i]? =
      some (reflectRegister cfg.width (serialByte cfg.width cfg.poly 0 (reflectByte i 8))) := by
    rw [buildTable_getElem? hl hi, tableEntry, if_pos hrefin]
  refine ⟨fun i hi => ⟨_, buildBase_getElem? hw hp (reflectByte_lt i), entry hi⟩, ?_, ?_⟩
  · rw [buildTable_getElem? hl (by decide), tableEntry_zero]
  · rw [entry (by decide), show reflectByte 0x80 8 = 1 by decide, serialByte_one]

/-- Settles O44: the length and the width of the entries are known of the builder, and entry 0 is 0. -/
theorem tableShape : Obligations.TableShape :=
  fun cfg hl => ⟨buildTable_length cfg, fun _ he => buildTable_lt he, by
    rw [buildTable_getElem? hl (by decide), tableEntry_zero]⟩

/-- Settles O45: every entry of either table is linear in its index, and the XOR of two bytes is a byte. -/
theorem tableIsLinear : Obligations.TableIsLinear := by
  intro cfg hl a b ha hb
  have ⟨hw, _, hp, _, _⟩ := hl
  have hab : a ^^^ b < 256 := Nat.xor_lt_two_pow (n := 8) ha hb
  refine ⟨⟨_, _, buildBase_getElem? hw hp ha, buildBase_getElem? hw hp hb, ?_⟩,
    ⟨_, _, buildTable_getElem? hl ha, buildTable_getElem? hl hb, ?_⟩⟩
  · rw [buildBase_getElem? hw hp hab, serialByte_xor]
  · rw [buildTable_getElem? hl hab, tableEntry_xor]

/-- Settles O46: both tables in closed form, read at the index. -/
theorem tableEntryIsSerialRegister : Obligations.TableEntryIsSerialRegister := by
  intro w poly i hw hp hi
  exact ⟨buildBase_getElem? hw hp hi, by simp [buildReflected_eq hw hp, hi]⟩

end Sys2Proof.Machine
end

section
/-! PROOFS. The base table as remainders over GF(2) (41_table_generator R155): feeding a bit into the register multiplies it by `x`,
adds the bit times `x^W`, and subtracts the generator when it overflows. -/

namespace Sys2Proof.Machine

open Polynomial

/-! ### Naturals as polynomials over GF(2) -/

/-- Bit `k` is the coefficient of `x^k` (00_scope R11). -/
theorem bitPolynomial_coeff (v k : Nat) : (bitPolynomial v).coeff k = if v.testBit k then 1 else 0 := by
  have hsummand : ∀ m, (if v.testBit m then X ^ m else 0 : (ZMod 2)[X]).coeff k =
      if k = m then (if v.testBit k then 1 else 0) else 0 := by
    intro m
    rcases eq_or_ne k m with rfl | hm
    · split <;> simp
    · split <;> simp [coeff_X_pow, hm]
  simp only [bitPolynomial, finsetSum_coeff, hsummand, Finset.sum_ite_eq, Finset.mem_range]
  by_cases hk : k < v.size
  · simp [hk]
  · simp [hk, Nat.testBit_lt_two_pow (Nat.size_le.1 (Nat.not_lt.1 hk))]

/-- XOR is addition over GF(2). -/
theorem bitPolynomial_xor (a b : Nat) : bitPolynomial (a ^^^ b) = bitPolynomial a + bitPolynomial b := by
  ext k
  rw [coeff_add]
  simp only [bitPolynomial_coeff, Nat.testBit_xor]
  cases a.testBit k <;> cases b.testBit k <;> decide

/-- A power of two is a power of `x`. -/
@[simp] theorem bitPolynomial_two_pow (n : Nat) : bitPolynomial (2 ^ n) = X ^ n := by
  ext k
  simp [bitPolynomial_coeff, coeff_X_pow, Nat.testBit_two_pow, eq_comm]

/-- 0 is the zero polynomial. -/
@[simp] theorem bitPolynomial_zero : bitPolynomial 0 = 0 := by
  simp [bitPolynomial]

/-- Only 0 is the zero polynomial. -/
theorem eq_zero_of_bitPolynomial_eq_zero {v : Nat} (h : bitPolynomial v = 0) : v = 0 := by
  refine Nat.eq_of_testBit_eq fun k => ?_
  simpa [bitPolynomial_coeff] using congrArg (coeff · k) h

/-- A shift by one is a multiplication by `x`. -/
theorem bitPolynomial_shiftLeft_one (v : Nat) : bitPolynomial (v <<< 1) = X * bitPolynomial v := by
  ext k
  cases k with
  | zero => simp [bitPolynomial_coeff]
  | succ k => simp [bitPolynomial_coeff, coeff_X_mul]

/-- A value of `n` bits is a polynomial of degree below `n`. -/
theorem bitPolynomial_degree_lt {n v : Nat} (hv : v < 2 ^ n) : (bitPolynomial v).degree < n := by
  refine (degree_lt_iff_coeff_zero _ n).2 fun m hm => ?_
  simp [bitPolynomial_coeff, Nat.testBit_lt_two_pow (hv.trans_le (Nat.pow_le_pow_right (by decide) hm))]

/-- The low `n + 1` bits are bit `n` and the low `n` bits. -/
theorem mod_two_pow_succ_eq_xor (v n : Nat) :
    v % 2 ^ (n + 1) = (if v.testBit n then 2 ^ n else 0) ^^^ v % 2 ^ n := by
  refine Nat.eq_of_testBit_eq fun k => ?_
  simp only [Nat.testBit_xor, Nat.testBit_mod_two_pow]
  rcases lt_trichotomy k n with hk | rfl | hk
  · split <;> simp [hk, hk.trans n.lt_succ_self, hk.ne']
  · split <;> simp [*]
  · split <;> simp [show ¬ k < n + 1 by omega, hk.not_gt, hk.ne]

/-! ### The generator -/

/-- The full generator `P(x) = x^W + POLY(x)` (00_scope R11). -/
noncomputable def generator (w poly : Nat) : (ZMod 2)[X] :=
  X ^ w + bitPolynomial poly

/-- The generator is monic, `POLY` being of a lower degree. -/
theorem generator_monic {w p : Nat} (hp : p < 2 ^ w) : (generator w p).Monic :=
  monic_X_pow_add (bitPolynomial_degree_lt hp)

/-- The generator is of degree `W`. -/
theorem generator_degree {w p : Nat} (hp : p < 2 ^ w) : (generator w p).degree = w := by
  rw [generator, degree_add_eq_left_of_degree_lt] <;> simp [bitPolynomial_degree_lt hp]

/-! ### The bit-serial register as a remainder -/

/-- A shift masked to `W` bits multiplies by `x` and drops the term in `x^W`. -/
theorem bitPolynomial_maskTo_shiftLeft {w r : Nat} (hw : 1 ≤ w) (hr : r < 2 ^ w) :
    bitPolynomial (maskTo w (r <<< 1)) = X * bitPolynomial r + if r.testBit (w - 1) then X ^ w else 0 := by
  have hlt : r <<< 1 < 2 ^ (w + 1) := by rw [Nat.shiftLeft_eq, pow_succ]; omega
  have hsplit := congrArg bitPolynomial (mod_two_pow_succ_eq_xor (r <<< 1) w)
  rw [Nat.mod_eq_of_lt hlt, Nat.testBit_shiftLeft, bitPolynomial_xor, bitPolynomial_shiftLeft_one] at hsplit
  rw [hsplit, maskTo]
  by_cases htop : r.testBit (w - 1)
  · simp [htop, hw, add_right_comm, CharTwo.add_self_eq_zero]
  · simp [htop]

/-- One step multiplies the register by `x`, adds the bit times `x^W`, and reduces by the generator when the feedback is set. -/
theorem bitPolynomial_serialStep {w p r : Nat} (hw : 1 ≤ w) (hr : r < 2 ^ w) (b : Bool) :
    bitPolynomial (serialStep w p r b) = X * bitPolynomial r + (if b then X ^ w else 0) +
      if xor (r.testBit (w - 1)) b then generator w p else 0 := by
  have hfeedback : (if r.testBit (w - 1) then X ^ w else 0 : (ZMod 2)[X]) =
      (if b then X ^ w else 0) + if xor (r.testBit (w - 1)) b then X ^ w else 0 := by
    cases r.testBit (w - 1) <;> cases b <;> simp [CharTwo.add_self_eq_zero]
  have hmask := bitPolynomial_maskTo_shiftLeft hw hr
  rw [hfeedback] at hmask
  unfold serialStep
  split
  · next hfb => rw [bitPolynomial_xor, hmask, if_pos hfb, generator]; ring
  · next hfb => rw [hmask, if_neg hfb]; ring

/-- Feeding `n` bits multiplies the register by `x^n` and adds the bits times `x^W`, up to a multiple of the generator. -/
theorem generator_dvd_serialBits_sub {w p r : Nat} (hw : 1 ≤ w) (hp : p < 2 ^ w) (hr : r < 2 ^ w) (b n : Nat) :
    generator w p ∣ bitPolynomial (serialBits w p b n r) -
      (X ^ n * bitPolynomial r + bitPolynomial (b % 2 ^ n) * X ^ w) := by
  induction n generalizing r with
  | zero => simp [serialBits, Nat.mod_one]
  | succ n ih =>
    have hrest := ih (serialStep_lt hp r (b.testBit n))
    rw [bitPolynomial_serialStep hw hr] at hrest
    rw [serialBits, mod_two_pow_succ_eq_xor, bitPolynomial_xor]
    have hbit : bitPolynomial (if b.testBit n then 2 ^ n else 0) * X ^ w =
        X ^ n * (if b.testBit n then X ^ w else 0 : (ZMod 2)[X]) := by split <;> simp
    have hreduced : generator w p ∣ X ^ n * if xor (r.testBit (w - 1)) (b.testBit n) then generator w p else 0 := by
      split <;> simp
    convert dvd_add hrest hreduced using 1
    linear_combination -hbit

/-- Every byte leaves its multiple of `x^W`, up to a multiple of the generator. -/
theorem generator_dvd_serialByte_sub {w p i : Nat} (hw : 1 ≤ w) (hp : p < 2 ^ w) (hi : i < 256) :
    generator w p ∣ bitPolynomial (serialByte w p 0 i) - bitPolynomial i * X ^ w := by
  simpa [serialByte, Nat.mod_eq_of_lt hi] using generator_dvd_serialBits_sub hw hp (Nat.two_pow_pos w) i 8

/-- Settles O47: the register of the byte has a degree below the generator's, and differs from the byte's multiple of `x^W` by a
multiple of the generator. -/
theorem tableEntryIsPolynomialRemainder : Obligations.TableEntryIsPolynomialRemainder := by
  intro w poly i hw hp hi
  refine ⟨_, buildBase_getElem? hw hp hi, ?_⟩
  have hreduced : (bitPolynomial (serialByte w poly 0 i)).degree < (generator w poly).degree := by
    rw [generator_degree hp]
    exact bitPolynomial_degree_lt (serialByte_lt hp i)
  calc bitPolynomial (serialByte w poly 0 i)
      = bitPolynomial (serialByte w poly 0 i) %ₘ generator w poly :=
        ((modByMonic_eq_self_iff (generator_monic hp)).2 hreduced).symm
    _ = (bitPolynomial i * X ^ w) %ₘ generator w poly :=
        modByMonic_eq_of_dvd_sub (generator_monic hp) (generator_dvd_serialByte_sub hw hp hi)

end Sys2Proof.Machine
end

section
/-! PROOFS. The table's corner configurations (41_table_generator R158). -/

namespace Sys2Proof.Machine

open Polynomial

/-! ### `POLY = 0` and `W = 1` -/

/-- With the zero polynomial the register of zeros stays 0, whatever is fed. -/
theorem serialBits_poly_zero (w i n : Nat) : serialBits w 0 i n 0 = 0 := by
  induction n with
  | zero => rfl
  | succ n ih => cases h : i.testBit n <;> simpa [serialBits, h] using ih

/-- A register of one bit with `POLY = 1` adds the bit fed, modulo 2. -/
theorem serialStep_width_one {r : Nat} (hr : r < 2) (b : Bool) : serialStep 1 1 r b = (r + b.toNat) % 2 := by
  interval_cases r <;> cases b <;> rfl

/-- Feeding `n` bits adds how many of them are set, modulo 2. -/
theorem serialBits_width_one (i n : Nat) {r : Nat} (hr : r < 2) :
    serialBits 1 1 i n r = (r + ((List.range n).filter fun k => i.testBit k).length) % 2 := by
  induction n generalizing r with
  | zero => simp [serialBits, Nat.mod_eq_of_lt hr]
  | succ n ih =>
    have hstep := serialStep_width_one hr (i.testBit n)
    have hlast : ([n].filter fun k => i.testBit k).length = (i.testBit n).toNat := by
      cases h : i.testBit n <;> simp [h]
    rw [serialBits, ih (by omega), hstep, List.range_succ, List.filter_append, List.length_append, hlast]
    omega

/-! ### An odd polynomial of at least 8 bits -/

/-- `x` does not divide the generator of an odd polynomial. -/
theorem isCoprime_generator_X_pow {w p : Nat} (hw : 1 ≤ w) (hodd : p % 2 = 1) : IsCoprime (generator w p) (X ^ w) := by
  have hconst : (generator w p).coeff 0 ≠ 0 := by
    simp [generator, bitPolynomial_coeff, coeff_X_pow, hodd, show 0 ≠ w by omega]
  exact ((irreducible_X.coprime_iff_not_dvd).2 fun h => hconst (X_dvd_iff.1 h)).symm.pow_right

/-- The kernel of the table is zero: a generator that divides `i(x) * x^W` divides `i(x)`, which has a lower degree. -/
theorem eq_zero_of_serialByte_eq_zero {w p i : Nat} (hw : 8 ≤ w) (hp : p < 2 ^ w) (hodd : p % 2 = 1) (hi : i < 256)
    (h : serialByte w p 0 i = 0) : i = 0 := by
  have hdvd := generator_dvd_serialByte_sub (by omega) hp hi
  rw [h, bitPolynomial_zero, zero_sub, dvd_neg] at hdvd
  have hlow : i < 2 ^ w := hi.trans_le (Nat.pow_le_pow_right (n := 2) (by decide) hw)
  refine eq_zero_of_bitPolynomial_eq_zero (eq_zero_of_dvd_of_degree_lt
    ((isCoprime_generator_X_pow (by omega) hodd).dvd_of_dvd_mul_right hdvd) ?_)
  rw [generator_degree hp]
  exact bitPolynomial_degree_lt hlow

/-- Different bytes leave different registers, by linearity. -/
theorem serialByte_inj {w p a b : Nat} (hw : 8 ≤ w) (hp : p < 2 ^ w) (hodd : p % 2 = 1) (ha : a < 256) (hb : b < 256)
    (h : serialByte w p 0 a = serialByte w p 0 b) : a = b := by
  refine Nat.xor_eq_zero_iff.1 (eq_zero_of_serialByte_eq_zero hw hp hodd (Nat.xor_lt_two_pow (n := 8) ha hb) ?_)
  rw [serialByte_xor, h, Nat.xor_self]

/-- A reversal of `n` bits tells values of `n` bits apart. -/
theorem reverseLow_inj {n a b : Nat} (ha : a < 2 ^ n) (hb : b < 2 ^ n) (h : reverseLow n a = reverseLow n b) : a = b := by
  rw [← Nat.mod_eq_of_lt ha, ← Nat.mod_eq_of_lt hb, ← reverseLow_reverseLow, h, reverseLow_reverseLow]

/-- Different indices hold different entries of the engine's table: reflection tells the registers and the bytes apart. -/
theorem tableEntry_inj {cfg : Config} (hw : 8 ≤ cfg.width) (hp : cfg.poly < 2 ^ cfg.width) (hodd : cfg.poly % 2 = 1)
    {a b : Nat} (ha : a < 256) (hb : b < 256) (h : tableEntry cfg a = tableEntry cfg b) : a = b := by
  unfold tableEntry at h
  split at h
  · have hregister := reverseLow_inj (serialByte_lt hp _) (serialByte_lt hp _) h
    exact reverseLow_inj (n := 8) ha hb (serialByte_inj hw hp hodd (reflectByte_lt a) (reflectByte_lt b) hregister)
  · exact serialByte_inj hw hp hodd ha hb h

/-- A list of 256 entries that different indices tell apart has no entry twice. -/
theorem nodup_map_range {f : Nat → Nat} (hf : ∀ a < 256, ∀ b < 256, f a = f b → a = b) :
    ((List.range 256).map f).Nodup :=
  List.Nodup.map_on (fun a ha b hb => hf a (List.mem_range.1 ha) b (List.mem_range.1 hb)) List.nodup_range

/-- Settles O48: the closed form of each table, at a polynomial of zeros, in one bit, and over a zero kernel. -/
theorem tableCorners : Obligations.TableCorners := by
  refine ⟨fun w hw e he => ?_, fun w hw e he => ?_, fun poly i hpoly hi => ?_, fun cfg hl hw hodd => ?_⟩
  · rw [buildBase_eq hw (Nat.two_pow_pos w)] at he
    obtain ⟨i, -, rfl⟩ := List.mem_map.1 he
    exact serialBits_poly_zero w i 8
  · rw [buildReflected_eq hw (Nat.two_pow_pos w)] at he
    obtain ⟨i, -, rfl⟩ := List.mem_map.1 he
    rw [serialByte, serialBits_poly_zero]
    exact reverseLow_zero w
  · rw [buildBase_getElem? le_rfl hpoly hi, serialByte]
    interval_cases poly
    · rw [serialBits_poly_zero, Nat.zero_mul]
    · rw [serialBits_width_one i 8 (by decide), Nat.zero_add, Nat.one_mul]
  · have ⟨hw1, _, hp, _, _⟩ := hl
    rw [buildBase_eq hw1 hp, buildTable_eq hl]
    exact ⟨nodup_map_range fun a ha b hb => serialByte_inj hw hp hodd ha hb,
      nodup_map_range fun a ha b hb => tableEntry_inj hw hp hodd ha hb⟩

end Sys2Proof.Machine
end

section
/-! PROOFS. The update path by path, and the table index inside the table (42_register_update R171-R174, R178). -/

namespace Sys2Proof.Machine

/-- Settles O49: each path's index is a byte. -/
theorem tableIndexInRange : Obligations.TableIndexInRange :=
  fun _ c b hc => ⟨Nat.le_of_lt_succ (indexReflected_lt c b), fun _ hw => Nat.le_of_lt_succ (indexNarrow_lt hw.le hc b),
    fun hw => Nat.le_of_lt_succ (indexWide_lt hw hc b)⟩

/-- The value the table entry is added to: the register shifted by a byte, towards the bit that leaves first (42_register_update
R171-R173). `update_eq_xor` ties it to the update. -/
def shiftedRegister (cfg : Config) (c : Nat) : Nat :=
  maskTo cfg.width (if cfg.refin then c >>> 8 else c <<< 8)

/-- An update is one table entry added to the shifted register: the mask at the end of each path drops nothing of the entry. -/
theorem update_eq_xor (cfg : Config) {c : Nat} (hc : c < 2 ^ cfg.width) (b : Byte) :
    update cfg (buildTable cfg) c b = shiftedRegister cfg c ^^^ tableRead (buildTable cfg) (updateIndex cfg c b) := by
  have hentry := tableRead_buildTable_lt cfg (updateIndex_lt cfg hc b)
  have hmask (v : Nat) : maskTo cfg.width (v ^^^ tableRead (buildTable cfg) (updateIndex cfg c b)) =
      maskTo cfg.width v ^^^ tableRead (buildTable cfg) (updateIndex cfg c b) := by
    simp only [maskTo, xor_mod_two_pow, Nat.mod_eq_of_lt hentry]
  rw [shiftedRegister, ← hmask]
  unfold update updateIndex updateReflected updateNarrow updateWide
  split
  · rfl
  · split <;> rfl

/-- With `REFIN` the mask is redundant: a shift down keeps `W` bits (42_register_update R171). -/
theorem shiftedRegister_of_refin {cfg : Config} (h : cfg.refin = true) {c : Nat} (hc : c < 2 ^ cfg.width) :
    shiftedRegister cfg c = c >>> 8 := by
  rw [shiftedRegister, if_pos h]
  exact Nat.mod_eq_of_lt ((Nat.shiftRight_le c 8).trans_lt hc)

/-- Without `REFIN` the shift is up, and masked (42_register_update R172, R173). -/
theorem shiftedRegister_of_not_refin {cfg : Config} (h : cfg.refin = false) (c : Nat) :
    shiftedRegister cfg c = maskTo cfg.width (c <<< 8) := by
  simp [shiftedRegister, h]

/-- No bit of a register of at most 8 bits is left after a shift by a byte. -/
theorem shiftedRegister_of_width_le {cfg : Config} (hw : cfg.width ≤ 8) {c : Nat} (hc : c < 2 ^ cfg.width) :
    shiftedRegister cfg c = 0 := by
  cases h : cfg.refin with
  | true =>
    rw [shiftedRegister_of_refin h hc, Nat.shiftRight_eq_div_pow]
    exact Nat.div_eq_of_lt (hc.trans_le (Nat.pow_le_pow_right (by decide) hw))
  | false =>
    rw [shiftedRegister_of_not_refin h, maskTo, Nat.shiftLeft_eq]
    exact Nat.mod_eq_zero_of_dvd ((Nat.pow_dvd_pow 2 hw).mul_left c)

/-- The reflected index takes the register's low byte (42_register_update R171). -/
theorem updateIndex_of_refin {cfg : Config} (h : cfg.refin = true) (c : Nat) (b : Byte) :
    updateIndex cfg c b = b.toNat ^^^ (c % 256) := by
  rw [updateIndex, if_pos h, indexReflected, Nat.and_two_pow_sub_one_eq_mod c 8]

/-- The narrow index takes the whole register, at the top of a byte (42_register_update R172). -/
theorem updateIndex_of_narrow {cfg : Config} (h : cfg.refin = false) (hw : cfg.width < 8) (c : Nat) (b : Byte) :
    updateIndex cfg c b = b.toNat ^^^ (c * 2 ^ (8 - cfg.width)) := by
  simp [updateIndex, h, hw, indexNarrow, Nat.shiftLeft_eq]

/-- The wide index takes the register's top byte (42_register_update R173). -/
theorem updateIndex_of_wide {cfg : Config} (h : cfg.refin = false) (hw : 8 ≤ cfg.width) (c : Nat) (b : Byte) :
    updateIndex cfg c b = b.toNat ^^^ (c / 2 ^ (cfg.width - 8)) := by
  simp [updateIndex, h, Nat.not_lt.2 hw, indexWide, Nat.shiftRight_eq_div_pow]

/-- Settles O50: the shifted register and the index of each path, the former 0 for `W <= 8`. -/
theorem updatePathCorners : Obligations.UpdatePathCorners := by
  intro cfg c b _ hc
  have hupdate := update_eq_xor cfg hc b
  have hentry (hw : cfg.width ≤ 8) :
      update cfg (buildTable cfg) c b = tableRead (buildTable cfg) (updateIndex cfg c b) := by
    rw [hupdate, shiftedRegister_of_width_le hw hc, Nat.zero_xor]
  refine ⟨update_lt _ _ c b, fun h => ?_, fun h hw => ?_, fun h hw => ?_, fun h hw => ?_, fun h hw => ?_⟩
  · rw [hupdate, shiftedRegister_of_refin h hc, updateIndex_of_refin h]
  · have hbyte : c < 256 := hc.trans_le (Nat.pow_le_pow_right (n := 2) (by decide) hw)
    rw [hentry hw, updateIndex_of_refin h, Nat.mod_eq_of_lt hbyte]
  · rw [hentry hw.le, updateIndex_of_narrow h hw]
  · rw [hentry hw.le, updateIndex_of_wide h hw.ge, hw, Nat.sub_self, pow_zero, Nat.div_one]
  · have hread := tableRead_buildTable_lt cfg (updateIndex_lt cfg hc b)
    rw [hupdate, shiftedRegister_of_not_refin h, ← updateIndex_of_wide h hw, xor_mod_two_pow, Nat.mod_eq_of_lt hread,
      maskTo, Nat.shiftLeft_eq]

end Sys2Proof.Machine
end

section
/-! PROOFS. The fold over a concatenation, and finalization as a bijection (42_register_update R177, R180). -/

namespace Sys2Proof.Machine

/-- Settles O52: by induction on the first part, one update at a time. -/
theorem foldOverConcatenation : Obligations.FoldOverConcatenation := by
  intro cfg table c a b
  induction a generalizing c with
  | nil => rfl
  | cons x a ih => exact ih (update cfg table c x)

/-- Reflecting twice gives a `W`-bit value back (40_bit_reflector R134). -/
theorem reflectRegister_reflectRegister {w v : Nat} (hv : v < 2 ^ w) : reflectRegister w (reflectRegister w v) = v :=
  (reverseLow_reverseLow w v).trans (Nat.mod_eq_of_lt hv)

/-- `unfinalize` of a `W`-bit value has `W` bits (42_register_update R180). -/
theorem unfinalize_lt {cfg : Config} (hl : legalConfig cfg) {v : Nat} (hv : v < 2 ^ cfg.width) :
    unfinalize cfg v < 2 ^ cfg.width := by
  obtain ⟨-, -, -, -, hxorout⟩ := hl
  unfold unfinalize
  split
  · exact reflectRegister_lt _ _
  · exact Nat.xor_lt_two_pow hv hxorout

/-- FINALIZE undoes `unfinalize` on `W`-bit values. -/
theorem finalize_unfinalize {cfg : Config} (hl : legalConfig cfg) {v : Nat} (hv : v < 2 ^ cfg.width) :
    finalize cfg (unfinalize cfg v) = v := by
  obtain ⟨-, -, -, -, hxorout⟩ := hl
  unfold finalize unfinalize
  split
  · rw [reflectRegister_reflectRegister (Nat.xor_lt_two_pow hv hxorout), Nat.xor_xor_cancel_right]
  · rw [Nat.xor_xor_cancel_right]

/-- `unfinalize` undoes FINALIZE on `W`-bit values. -/
theorem unfinalize_finalize (cfg : Config) {c : Nat} (hc : c < 2 ^ cfg.width) :
    unfinalize cfg (finalize cfg c) = c := by
  unfold finalize unfinalize
  split
  · rw [Nat.xor_xor_cancel_right, reflectRegister_reflectRegister hc]
  · rw [Nat.xor_xor_cancel_right]

/-- Settles O53: both keep `W` bits, and each undoes the other. -/
theorem finalizeIsBijection : Obligations.FinalizeIsBijection :=
  fun cfg _ hl hc => ⟨finalize_lt hl hc, unfinalize_lt hl hc, finalize_unfinalize hl hc, unfinalize_finalize cfg hc⟩

end Sys2Proof.Machine
end

section
/-! PROOFS. The table-driven datapath is the bit-serial CRC (42_register_update R179). Feeding a register its own top bits never
sets the feedback, so it only shifts; by linearity, feeding any other bits adds to that shift the register that the difference
leaves from zero, which is the table entry at the update's index. -/

namespace Sys2Proof.Machine

/-! ### Bits fed into any register -/

/-- A step on the register's own top bit is a shift: the feedback is clear. -/
theorem serialStep_own_top (w p r : Nat) : serialStep w p r (r.testBit (w - 1)) = maskTo w (r <<< 1) := by
  simp [serialStep]

/-- Shifting and masking step by step is shifting and masking at once. -/
theorem maskTo_shiftLeft_maskTo (w m n r : Nat) : maskTo w (maskTo w (r <<< m) <<< n) = maskTo w (r <<< (m + n)) := by
  simp only [maskTo, Nat.shiftLeft_eq, Nat.mod_mul_mod, pow_add, mul_assoc]

/-- Feeding a register the bits that a shift by `n` pushes out of it leaves the shifted register. -/
theorem serialBits_own_top {w r : Nat} (hw : 1 ≤ w) (hr : r < 2 ^ w) (p n : Nat) :
    serialBits w p ((r <<< n) >>> w) n r = maskTo w (r <<< n) := by
  induction n generalizing r with
  | zero => exact (Nat.mod_eq_of_lt hr).symm
  | succ n ih =>
    have htop : ((r <<< (n + 1)) >>> w).testBit n = r.testBit (w - 1) := by
      rw [Nat.testBit_shiftRight, Nat.testBit_shiftLeft]
      simp [show n + 1 ≤ w + n by omega, show w + n - (n + 1) = w - 1 by omega]
    have hrest : ∀ k < n,
        ((r <<< (n + 1)) >>> w).testBit k = ((maskTo w (r <<< 1) <<< n) >>> w).testBit k := by
      intro k hk
      simp only [maskTo, Nat.testBit_shiftRight, Nat.testBit_shiftLeft, Nat.testBit_mod_two_pow]
      by_cases hout : n + 1 ≤ w + k
      · simp [hout, show n ≤ w + k by omega, show w + k - n < w by omega, show 1 ≤ w + k - n by omega,
          show w + k - (n + 1) = w + k - n - 1 by omega]
      · simp [hout, show ¬ 1 ≤ w + k - n by omega]
    rw [serialBits, htop, serialStep_own_top, serialBits_congr _ hrest, ih (maskTo_lt _ _), maskTo_shiftLeft_maskTo,
      Nat.add_comm 1 n]

/-- Feeding a byte shifts the register by 8 and adds what the byte, XOR the bits pushed out, leaves from zero. -/
theorem serialByte_eq_xor {w r : Nat} (hw : 1 ≤ w) (hr : r < 2 ^ w) (p b : Nat) :
    serialByte w p r b = maskTo w (r <<< 8) ^^^ serialByte w p 0 (b ^^^ ((r <<< 8) >>> w)) := by
  have hlinear := serialBits_xor w p 8 r 0 ((r <<< 8) >>> w) (b ^^^ ((r <<< 8) >>> w))
  rwa [Nat.xor_comm b, Nat.xor_xor_cancel_left, Nat.xor_zero, serialBits_own_top hw hr, Nat.xor_comm _ b] at hlinear

/-- Folding bytes into a `W`-bit register bit by bit leaves `W` bits. -/
theorem bitfold_lt {w p r : Nat} (hp : p < 2 ^ w) (hr : r < 2 ^ w) (s : List Nat) : bitfold w p r s < 2 ^ w := by
  induction s generalizing r with
  | nil => exact hr
  | cons b s ih => exact ih (serialBits_lt hp b 8 r hr)

/-! ### One update is one byte fed -/

/-- A read of the engine's table at a byte is the entry there. -/
theorem tableRead_buildTable {cfg : Config} (hl : legalConfig cfg) {i : Nat} (hi : i < 256) :
    tableRead (buildTable cfg) i = tableEntry cfg i := by
  rw [tableRead, buildTable_getElem? hl hi, Option.getD_some]

/-- Without `REFIN` the index is the byte XOR the bits that a shift by 8 pushes out, at every width: they are the register's
top byte when it has one, and the whole register below it. -/
theorem updateIndex_of_not_refin {cfg : Config} (h : cfg.refin = false) (c : Nat) (b : Byte) :
    updateIndex cfg c b = b.toNat ^^^ ((c <<< 8) >>> cfg.width) := by
  rcases Nat.lt_or_ge cfg.width 8 with hw | hw
  · rw [updateIndex_of_narrow h hw, Nat.shiftLeft_eq, Nat.shiftRight_eq_div_pow, Nat.mul_div_assoc _ (Nat.pow_dvd_pow 2 hw.le),
      Nat.pow_div hw.le (by decide)]
  · obtain ⟨n, hn⟩ := Nat.exists_eq_add_of_le' hw
    rw [updateIndex_of_wide h hw, hn, Nat.add_sub_cancel, Nat.shiftLeft_eq, Nat.shiftRight_eq_div_pow, pow_add,
      Nat.mul_div_mul_right _ _ (by decide)]

/-- Without `REFIN` an update feeds its byte, at every width (42_register_update R179). -/
theorem update_of_not_refin {cfg : Config} (hl : legalConfig cfg) (h : cfg.refin = false) {c : Nat} (hc : c < 2 ^ cfg.width)
    (b : Byte) : update cfg (buildTable cfg) c b = serialByte cfg.width cfg.poly c b.toNat := by
  have ⟨hw, _⟩ := hl
  rw [update_eq_xor cfg hc, shiftedRegister_of_not_refin h, tableRead_buildTable hl (updateIndex_lt cfg hc b),
    updateIndex_of_not_refin h, tableEntry, if_neg (by simp [h]), ← serialByte_eq_xor hw hc]

/-- A shift by 8 of the reflected register, cut at bit `W`: the low byte reflected above, the rest reflected below. -/
theorem reflectRegister_shiftLeft {w c : Nat} (hc : c < 2 ^ w) :
    reflectRegister w c <<< 8 = (reverseLow 8 c <<< w) ^^^ reflectRegister w (c >>> 8) := by
  have hregister := reverseLow_add w 8 c
  have hbyte := reverseLow_add 8 w c
  rw [Nat.div_eq_of_lt hc, reverseLow_zero, Nat.xor_zero, Nat.add_comm w 8] at hregister
  rw [Nat.shiftRight_eq_div_pow]
  exact hregister.symm.trans hbyte

/-- What a shift by 8 of the reflected register pushes out is the register's low byte, reflected. -/
theorem reflectRegister_shiftLeft_out {w c : Nat} (hc : c < 2 ^ w) :
    (reflectRegister w c <<< 8) >>> w = reverseLow 8 c := by
  rw [reflectRegister_shiftLeft hc, Nat.shiftRight_xor_distrib, Nat.shiftLeft_shiftRight, Nat.shiftRight_eq_div_pow,
    Nat.div_eq_of_lt (reflectRegister_lt w _), Nat.xor_zero]

/-- What stays is the register shifted down by 8, reflected. -/
theorem maskTo_reflectRegister_shiftLeft {w c : Nat} (hc : c < 2 ^ w) :
    maskTo w (reflectRegister w c <<< 8) = reflectRegister w (c >>> 8) := by
  rw [reflectRegister_shiftLeft hc, maskTo, xor_mod_two_pow, Nat.shiftLeft_eq, Nat.mul_mod_left, Nat.zero_xor,
    Nat.mod_eq_of_lt (reflectRegister_lt w _)]

/-- The reflected index is the reflected byte XOR what a shift of the reflected register pushes out, reflected. -/
theorem reflectByte_updateIndex {cfg : Config} (h : cfg.refin = true) {c : Nat} (hc : c < 2 ^ cfg.width) (b : Byte) :
    reflectByte (updateIndex cfg c b) 8 =
      reflectByte b.toNat 8 ^^^ ((reflectRegister cfg.width c <<< 8) >>> cfg.width) := by
  have hlow : reflectByte (c % 256) 8 = reverseLow 8 c := reverseLow_mod 8 c
  rw [updateIndex_of_refin h, reflectionIsLinear.2, hlow, reflectRegister_shiftLeft_out hc]

/-- With `REFIN` an update feeds its reflected byte to the reflected register (42_register_update R179). -/
theorem reflectRegister_update {cfg : Config} (hl : legalConfig cfg) (h : cfg.refin = true) {c : Nat}
    (hc : c < 2 ^ cfg.width) (b : Byte) :
    reflectRegister cfg.width (update cfg (buildTable cfg) c b) =
      serialByte cfg.width cfg.poly (reflectRegister cfg.width c) (reflectByte b.toNat 8) := by
  have ⟨hw, _, hp, _, _⟩ := hl
  have hentry : tableEntry cfg (updateIndex cfg c b) = reflectRegister cfg.width
      (serialByte cfg.width cfg.poly 0 (reflectByte (updateIndex cfg c b) 8)) := if_pos h
  rw [update_eq_xor cfg hc, shiftedRegister_of_refin h hc, tableRead_buildTable hl (updateIndex_lt cfg hc b), hentry,
    reflectionIsLinear.1, reflectRegister_reflectRegister (serialByte_lt hp _), reflectByte_updateIndex h hc,
    ← maskTo_reflectRegister_shiftLeft hc, ← serialByte_eq_xor hw (reflectRegister_lt _ c)]

/-! ### The fold and the checksum -/

/-- Without `REFIN` a fold is the bit-serial fold of the bytes. -/
theorem fold_of_not_refin {cfg : Config} (hl : legalConfig cfg) (h : cfg.refin = false) {c : Nat} (hc : c < 2 ^ cfg.width)
    (s : List Byte) :
    fold cfg (buildTable cfg) c s = bitfold cfg.width cfg.poly c (s.map fun b => b.toNat) := by
  induction s generalizing c with
  | nil => rfl
  | cons b s ih => rw [fold, ih (update_lt cfg _ c b), update_of_not_refin hl h hc, List.map_cons, bitfold]

/-- With `REFIN` a fold is the reflection of the bit-serial fold of the reflected bytes. -/
theorem fold_of_refin {cfg : Config} (hl : legalConfig cfg) (h : cfg.refin = true) {c : Nat} (hc : c < 2 ^ cfg.width)
    (s : List Byte) :
    fold cfg (buildTable cfg) c s = reflectRegister cfg.width
      (bitfold cfg.width cfg.poly (reflectRegister cfg.width c) (s.map fun b => reflectByte b.toNat 8)) := by
  induction s generalizing c with
  | nil => exact (reflectRegister_reflectRegister hc).symm
  | cons b s ih => rw [fold, ih (update_lt cfg _ c b), reflectRegister_update hl h hc, List.map_cons, bitfold]

/-- The finalized fold from `CI` is the bit-serial checksum: with `REFIN` both `CI` and the fold are reflections, and the
output is reflected once more exactly when `REFOUT` does not ask for it (42_register_update R176, R179). -/
theorem finalize_fold_eq_serialChecksum {cfg : Config} (hl : legalConfig cfg) (s : List Byte) :
    finalize cfg (fold cfg (buildTable cfg) (correctedInitial cfg) s) = serialChecksum cfg s := by
  have ⟨_, _, hp, hinit, _⟩ := hl
  have hci := correctedInitial_lt hl
  cases h : cfg.refin with
  | false =>
    rw [fold_of_not_refin hl h hci]
    simp [finalize, serialChecksum, serialInput, correctedInitial, reflectsOutput, h]
  | true =>
    have hreflected := bitfold_lt hp hinit (s.map fun b => reflectByte b.toNat 8)
    rw [fold_of_refin hl h hci]
    cases hout : cfg.refout <;>
      simp [finalize, serialChecksum, serialInput, correctedInitial, reflectsOutput, h, hout,
        reflectRegister_reflectRegister, hinit, hreflected]

/-- Settles O54: the fold of each configuration by induction on the stream, and the checksum from it. -/
theorem tableDrivenEqualsBitSerial : Obligations.TableDrivenEqualsBitSerial :=
  fun _ _ s hl hc => ⟨fun h => fold_of_not_refin hl h hc s, fun h => fold_of_refin hl h hc s,
    finalize_fold_eq_serialChecksum hl s⟩

/-- Settles O55: CSTATIC answers the finalized fold from `CI` over the engine's table, which is the one construction built. -/
theorem cstaticAnswersBitSerialChecksum : Obligations.CstaticAnswersBitSerialChecksum := by
  intro s d bytes hs hf hd
  have hanswer := finalize_fold_eq_serialChecksum hs.legal bytes
  rw [← hs.table] at hanswer
  rw [← hanswer]
  exact (ExecEffect.cstatic d bytes hd).exec_eq hf

end Sys2Proof.Machine
end

section
/-! PROOFS. A step carries out the host's next action, and a run over finitely many ends (43_engine R190, R213). -/

namespace Sys2Proof.Machine

/-- Settles O5: the step takes the action, and issuing a transaction executes the command it decodes to. -/
theorem stepRunsDecodedCommand : Obligations.StepRunsDecodedCommand := by
  intro s c rest i hin hd
  simp only [step, advance, hin, hostStep, issueCommand, hd]
  rfl

/-- Every command ends through `State.stepTo`, so the fault record alone decides whether it has a step (43_engine R190). -/
theorem exec_eq_stepTo (i : Instr) (s : State) : ∃ t, exec i s = s.stepTo t := by
  cases i with
  | set v => simp only [exec, execSet]; split <;> exact ⟨_, rfl⟩
  | compute d => simp only [exec, execCompute]; split <;> exact ⟨_, rfl⟩
  | cstatic d => simp only [exec, execCstatic]; split <;> exact ⟨_, rfl⟩
  | rdparCheck => simp only [exec, execRdparCheck, State.answerIfSelftest]; split <;> exact ⟨_, rfl⟩
  | rdparExpected => simp only [exec, execRdparExpected, State.answerIfSelftest]; split <;> exact ⟨_, rfl⟩
  | _ => exact ⟨_, rfl⟩

/-- Every step ends through `State.stepTo` too: what is pending does not decide whether there is one. -/
theorem step_eq_stepTo (s : State) : ∃ t, step s = s.stepTo t := by
  unfold step advance
  split
  · exact ⟨s, rfl⟩
  · next a rest _ =>
    cases a with
    | supply n bytes => exact ⟨_, rfl⟩
    | issue c =>
      simp only [hostStep, issueCommand]
      split
      · next i _ => exact exec_eq_stepTo i (s.withInputs rest)
      · exact ⟨_, rfl⟩

/-- An engine without a fault has a step (43_engine R190). -/
theorem exists_step_of_unfaulted {s : State} (h : s.fault = none) : ∃ t, step s = .next t := by
  obtain ⟨t, ht⟩ := step_eq_stepTo s
  exact ⟨t, ht.trans (State.stepTo_of_unfaulted h t)⟩

/-- A faulted engine has no step (60_exceptions R257). -/
theorem step_of_faulted {s : State} {f : FaultRecord} (h : s.fault = some f) : step s = .fault (.engineFaulted f) := by
  obtain ⟨t, ht⟩ := step_eq_stepTo s
  exact ht.trans (State.stepTo_of_faulted h t)

/-- Commands are counted one action at a time. -/
theorem commandCount_cons (a : HostAction) (l : List HostAction) :
    commandCount (a :: l) = commandCount [a] + commandCount l := by
  cases a <;> simp [commandCount, Nat.add_comm]

/-- A step with an action pending takes that action alone and adds one response if it is a command, none if it is not. -/
theorem StepEffect.of_pending {s t : State} {a : HostAction} {rest : List HostAction} (h : StepEffect s t)
    (hin : s.inputs = a :: rest) :
    t.inputs = rest ∧ t.responses.length = s.responses.length + commandCount [a] := by
  cases h with
  | idle h => cases hin.symm.trans h
  | supply n bytes rest' h => cases hin.symm.trans h; exact ⟨rfl, rfl⟩
  | illegal c rest' why word h _ => cases hin.symm.trans h; exact ⟨rfl, by simp [commandCount]⟩
  | command c rest' i _ h _ he =>
    cases hin.symm.trans h
    obtain ⟨-, -, -, -, hinputs⟩ := he.frame
    obtain ⟨r, hr⟩ := he.adds_one_response
    exact ⟨hinputs, by simp [hr, commandCount]⟩

/-- A run whose first step ends in a next state goes on from there. -/
theorem runFor_succ {s t : State} (h : step s = .next t) (n : Nat) : runFor (n + 1) s = runFor n t := by
  have hcore : core.step s = .next t := h
  change core.run (n + 1) s = core.run n t
  simp only [Host.Core.run, hcore]

/-- Settles O60: by induction on the pending actions, of which each step takes one; the run stops where the first command
faults. -/
theorem runsEnd : Obligations.RunsEnd := by
  intro s hf
  induction hin : s.inputs generalizing s with
  | nil => exact ⟨0, s, le_rfl, rfl, rfl, .inl ⟨⟨hin, hf⟩, rfl⟩⟩
  | cons a rest ih =>
    obtain ⟨t, ht⟩ := exists_step_of_unfaulted hf
    obtain ⟨hinputs, hresponses⟩ := (step_effect ht).2.of_pending hin
    cases hft : t.fault with
    | some f => exact ⟨1, t, by simp, runFor_succ ht 0, hresponses, .inr ⟨f, hft, step_of_faulted hft⟩⟩
    | none =>
      obtain ⟨n, u, hn, hrun, hcount, hend⟩ := ih t hft hinputs
      refine ⟨n + 1, u, Nat.succ_le_succ hn, (runFor_succ ht n).trans hrun, ?_, ?_⟩
      · rw [hcount, hresponses, List.take_succ_cons, commandCount_cons a (rest.take n), Nat.add_assoc]
      · exact hend.imp_left fun ⟨hnormal, hlen⟩ => ⟨hnormal, congrArg (· + 1) hlen⟩

end Sys2Proof.Machine
end

section
/-! PROOFS. The commands one by one (43_engine R191-R208): each word is its command's encoding (O1), and `ExecEffect.exec_eq`
gives what the command does. -/

namespace Sys2Proof.Machine

/-! ### RESET and SET -/

/-- Settles O10: RESET again writes the `CI` that `current` already holds, and a COMPUTE over no bytes folds nothing. -/
theorem resetCommand : Obligations.ResetCommand := by
  refine ⟨decodeEncodeRoundTrip .reset, fun s hf => ?_⟩
  exact ⟨_, exec_reset_of_unfaulted hf, rfl, exec_reset_of_unfaulted hf,
    fun d hd => (ExecEffect.compute d [] hd).exec_eq hf⟩

/-- Settles O11: the range check of R192, which `CI` passes in a legal configuration. -/
theorem setCommand : Obligations.SetCommand := by
  refine ⟨rfl, fun s v hf => ⟨decodeEncodeRoundTrip (.set v), fun hv => ?_, fun hv => ?_, fun hl => ?_⟩⟩
  · exact (ExecEffect.set v hv).exec_eq hf
  · exact (ExecEffect.setRange v hv).exec_eq hf
  · have hset := (ExecEffect.set _ (le_allOnes_iff.2 (correctedInitial_lt hl))).exec_eq hf
    exact hset.trans (exec_reset_of_unfaulted hf).symm

/-! ### COMPUTE and CSTATIC -/

/-- Settles O12: the two ways framing can end; the answer has `W` bits as fold and finalization keep them. -/
theorem computeCommand : Obligations.ComputeCommand := by
  refine ⟨rfl, rfl, fun s d hf =>
    ⟨decodeEncodeRoundTrip (.compute d), fun bytes hd => ⟨?_, fun hl hc => ?_⟩, fun f hd => ?_⟩⟩
  · exact (ExecEffect.compute d bytes hd).exec_eq hf
  · exact finalize_lt hl (fold_lt _ _ _ _ (le_allOnes_iff.1 hc))
  · exact ⟨State.frame_error hd, (ExecEffect.computeFault d f hd).exec_eq hf⟩

/-- Settles O13: the two ways framing can end; another `current` frames the same bytes. -/
theorem cstaticCommand : Obligations.CstaticCommand := by
  refine fun s d hf => ⟨decodeEncodeRoundTrip (.cstatic d), fun bytes hd c => ?_, fun f hd => ?_⟩
  · have hd' : (s.setCurrent c).frame d = .ok bytes := (State.frame_of_memory rfl d).trans hd
    exact (ExecEffect.cstatic d bytes hd').exec_eq hf
  · exact ⟨State.frame_error hd, (ExecEffect.cstaticFault d f hd).exec_eq hf⟩

/-- Settles O23: the bytes each form frames, and COMPUTE or CSTATIC over them. -/
theorem apiCallForms : Obligations.ApiCallForms := by
  intro s c off n hf
  obtain ⟨-, hwhole, -, hoffset⟩ := wholeAndOffsetFraming s c off
  obtain ⟨hrange, -, hok⟩ := offlenFraming s c off n
  refine ⟨(ExecEffect.compute _ _ hwhole).exec_eq hf, fun hoff => ?_, ?_, fun hlen => ?_⟩
  · obtain ⟨-, hd⟩ := hoffset hoff
    exact (ExecEffect.compute _ _ hd).exec_eq hf
  · simp only [ApiCall.expand, exec, execCompute, hrange]
  · exact (ExecEffect.cstatic _ _ (hrange.symm.trans (hok hlen))).exec_eq hf

/-! ### RDTAB and RDPAR -/

/-- Settles O14: the table of an engine that exists is the one built, whose entries `tableEntry` gives. -/
theorem rdtabCommand : Obligations.RdtabCommand := by
  refine ⟨fun idx => decodeEncodeRoundTrip (.rdtab idx), fun s idx hs hf => ⟨tableEntry s.cfg idx.toNat, ?_, ?_, ?_⟩⟩
  · rw [hs.table, buildTable_getElem? hs.legal idx.isLt]
  · rw [← tableRead_buildTable hs.legal idx.isLt, ← hs.table]
    exact (ExecEffect.rdtab idx).exec_eq hf
  · rintro rfl
    exact tableEntry_zero s.cfg

/-- Settles O15: one effect of `ExecEffect` for each command. -/
theorem rdparConstantCommands : Obligations.RdparConstantCommands := by
  intro s hf
  exact ⟨⟨decodeEncodeRoundTrip .rdparWidth, ExecEffect.width.exec_eq hf⟩,
    ⟨decodeEncodeRoundTrip .rdparPoly, ExecEffect.poly.exec_eq hf⟩,
    ⟨decodeEncodeRoundTrip .rdparInit, ExecEffect.init.exec_eq hf⟩,
    ⟨decodeEncodeRoundTrip .rdparXorout, ExecEffect.xorout.exec_eq hf⟩,
    ⟨decodeEncodeRoundTrip .rdparRefin, ExecEffect.refin.exec_eq hf⟩,
    ⟨decodeEncodeRoundTrip .rdparRefout, ExecEffect.refout.exec_eq hf⟩,
    fun ⟨hw, hcap, _⟩ => ⟨hw, hcap⟩⟩

/-- Settles O16: the invariant holds both the self-test's equality and the check value's expression. -/
theorem rdparSelftestCommands : Obligations.RdparSelftestCommands := by
  refine ⟨decodeEncodeRoundTrip .rdparCheck, decodeEncodeRoundTrip .rdparExpected, fun s hf hself => ?_⟩
  exact ⟨(ExecEffect.check hself).exec_eq hf, (ExecEffect.expected hself).exec_eq hf,
    fun hs => ⟨hs.selftest hself, hs.check⟩⟩

end Sys2Proof.Machine
end

section
/-! PROOFS. One-shot and incremental computation agree (43_engine R211, R212). -/

namespace Sys2Proof.Machine

/-- A command that writes `current` and responds leaves what every descriptor frames (20_memory R69). -/
theorem State.frame_setCurrent_respond (s : State) (v : Nat) (r : Response) (d : Framing) :
    ((s.setCurrent v).respond r).frame d = s.frame d :=
  State.frame_of_memory rfl d

/-- Settles O56: after RESET `current` is the `CI` that CSTATIC starts from, and the stream frames as before. -/
theorem oneShotEqualsStreaming : Obligations.OneShotEqualsStreaming := by
  intro s d bytes hf hd
  exact ⟨_, _, _, exec_reset_of_unfaulted hf,
    (ExecEffect.compute d bytes ((s.frame_setCurrent_respond _ _ d).trans hd)).exec_eq hf, rfl,
    (ExecEffect.cstatic d bytes hd).exec_eq hf⟩

/-- Settles O57: the second COMPUTE folds B from the register the first left, and a fold over A and then B is the fold over
A ++ B (O52). -/
theorem incrementalEquivalence : Obligations.IncrementalEquivalence := by
  intro s da db dab a b hf hci ha hb hab
  refine ⟨_, _, (ExecEffect.compute da a ha).exec_eq hf,
    (ExecEffect.compute db b ((s.frame_setCurrent_respond _ _ db).trans hb)).exec_eq hf, ?_,
    (ExecEffect.cstatic dab (a ++ b) hab).exec_eq hf⟩
  rw [foldOverConcatenation, ← hci]
  rfl

end Sys2Proof.Machine
end

section
/-! PROOFS. Taking a fault: which command raises which, what it writes, and that no step follows it (60_exceptions R249-R257). -/

namespace Sys2Proof.Machine

/-! ### The fault of each command -/

/-- COMPUTE and CSTATIC over a stream whose framing faults raise that fault and consume nothing (20_memory R76). -/
theorem exec_of_frame_error {s : State} {d : Framing} {f : FaultRecord} {i : Instr} (hf : s.fault = none)
    (hd : s.frame d = .error f) (hi : i = .compute d ∨ i = .cstatic d) : exec i s = .next (s.raise f) := by
  rcases hi with rfl | rfl
  · exact (ExecEffect.computeFault d f hd).exec_eq hf
  · exact (ExecEffect.cstaticFault d f hd).exec_eq hf

/-- Settles O21: the order of the range is checked before its bounds. -/
theorem rangeOrderFaults : Obligations.RangeOrderFaults := by
  refine ⟨rfl, fun s c b e i hf hbe hi => ?_⟩
  have hframe : s.frame (.range c b e) = .error ⟨.rangeOrder, b⟩ := frameRange_of_stop_lt hbe _
  exact exec_of_frame_error hf hframe hi

/-- Settles O22: each of the three forms fails its bounds check with the position it reaches. -/
theorem rangeBoundsFaults : Obligations.RangeBoundsFaults := by
  refine ⟨rfl, fun s c d bound i hf hbound hd hi => ?_⟩
  have hframe : s.frame d = .error ⟨.rangeBounds, bound⟩ := by
    rcases hd with ⟨b, hb, rfl⟩ | rfl | ⟨off, n, rfl, rfl⟩
    · exact frameRange_of_length_lt hb hbound
    · exact frameOffset_of_length_lt hbound
    · obtain ⟨-, hover, -⟩ := offlenFraming s c off n
      exact hover hbound
  exact exec_of_frame_error hf hframe hi

/-- Settles O17: the two effects of `ExecEffect` without the self-test. -/
theorem noSelftestFaults : Obligations.NoSelftestFaults :=
  ⟨rfl, fun _ hf hself => ⟨(ExecEffect.checkFault hself).exec_eq hf, (ExecEffect.expectedFault hself).exec_eq hf⟩⟩

/-- Settles O29: the fault of each effect that takes one; the other effects leave the record at `none`. -/
theorem faultsByCommand : Obligations.FaultsByCommand := by
  intro i s t f h hft
  obtain ⟨hf, he⟩ := exec_effect h
  cases he with
  | setRange v hv =>
    obtain rfl := Option.some.inj hft
    exact .inl ⟨v, rfl, rfl, hv⟩
  | computeFault d f' hd =>
    obtain rfl := Option.some.inj hft
    exact .inr (.inl ⟨d, .inl rfl, hd, State.frame_error hd⟩)
  | cstaticFault d f' hd =>
    obtain rfl := Option.some.inj hft
    exact .inr (.inl ⟨d, .inr rfl, hd, State.frame_error hd⟩)
  | checkFault hself =>
    obtain rfl := Option.some.inj hft
    exact .inr (.inr ⟨hself, .inl ⟨rfl, rfl⟩⟩)
  | expectedFault hself =>
    obtain rfl := Option.some.inj hft
    exact .inr (.inr ⟨hself, .inr ⟨rfl, rfl⟩⟩)
  | _ => exact absurd (hf.symm.trans hft) nofun

/-! ### Entering a fault, and no way out -/

/-- A command that ends faulted has done nothing but take that fault (60_exceptions R256). -/
theorem ExecEffect.eq_raise {s t : State} {i : Instr} {f : FaultRecord} (h : ExecEffect s i t) (hf : s.fault = none)
    (hft : t.fault = some f) : t = s.raise f := by
  cases h with
  | setRange | computeFault | cstaticFault | checkFault | expectedFault => obtain rfl := Option.some.inj hft; rfl
  | _ => exact absurd (hf.symm.trans hft) nofun

/-- A step that ends faulted has taken a command from the pending actions and the fault it raises, and done nothing else. -/
theorem StepEffect.eq_raise {s t : State} {f : FaultRecord} (h : StepEffect s t) (hf : s.fault = none)
    (hft : t.fault = some f) : ∃ c rest, s.inputs = .issue c :: rest ∧ t = (s.withInputs rest).raise f := by
  cases h with
  | idle | supply => exact absurd (hf.symm.trans hft) nofun
  | command c rest i _ hin _ he => exact ⟨c, rest, hin, he.eq_raise hf hft⟩
  | illegal c rest why word hin _ => obtain rfl := Option.some.inj hft; exact ⟨c, rest, hin, rfl⟩

/-- Settles O28: a decoded command and an illegal word take their fault the same way. -/
theorem faultEntryIsPrecise : Obligations.FaultEntryIsPrecise := by
  intro s t c rest f hin h hft
  obtain ⟨hf, he⟩ := step_effect h
  obtain ⟨c', rest', hin', rfl⟩ := he.eq_raise hf hft
  cases hin.symm.trans hin'
  exact ⟨hf, rfl⟩

/-- No command executes in a faulted engine (43_engine R190). -/
theorem exec_of_faulted {s : State} {f : FaultRecord} (h : s.fault = some f) (i : Instr) :
    exec i s = .fault (.engineFaulted f) := by
  obtain ⟨t, ht⟩ := exec_eq_stepTo i s
  exact ht.trans (State.stepTo_of_faulted h t)

/-- Settles O8: steps and commands alike end through `State.stepTo`. -/
theorem faultedEngineHasNoStep : Obligations.FaultedEngineHasNoStep :=
  fun _ _ h => ⟨step_of_faulted h, exec_of_faulted h⟩

end Sys2Proof.Machine
end

section
/-! PROOFS. Construction: the invariant of the engine it returns, and the errors it reports, in order (60_exceptions R241-R248). -/

namespace Sys2Proof.Machine

/-- A legal configuration that passes its self-test gives an engine that meets the invariant: no command has been executed
yet, `current` is `CI` and the host holds no container. -/
theorem EngineInv.afterConstruction {cfg : Config} (hl : legalConfig cfg)
    (hself : cfg.selftest = true → computeCheck cfg (buildTable cfg) = cfg.expectedCheck) :
    EngineInv (State.afterConstruction cfg) where
  legal := hl
  table := rfl
  check := rfl
  selftest := hself
  current := le_allOnes_iff.2 (correctedInitial_lt hl)
  responses := nofun
  memory := ⟨.nil, nofun⟩

/-- The self-test passes when it is off or the check value is the expected one (43_engine R210). -/
theorem selftestFails_eq_false_iff {cfg : Config} {check : Nat} :
    selftestFails cfg check = false ↔ (cfg.selftest = true → check = cfg.expectedCheck) := by
  simp [selftestFails]

/-- Settles O33: construction returns an engine only for a legal configuration that passes its self-test. -/
theorem constructionGivesEngineInv : Obligations.ConstructionGivesEngineInv := by
  intro cfg s h
  obtain ⟨hl, hself, rfl⟩ := construct_eq_ok_iff.1 h
  exact .afterConstruction hl (selftestFails_eq_false_iff.1 hself)

/-- Construction reports what validation finds, before it builds anything (70_reset_and_hazards R270). -/
theorem construct_of_validate_eq_some {cfg : Config} {e : ConfigError} (h : validate cfg = some e) :
    construct cfg = .error e := by
  simp only [construct, h]

/-- A legal configuration whose self-test fails is reported as that mismatch (60_exceptions R246). -/
theorem construct_of_selftestFails {cfg : Config} (hl : legalConfig cfg)
    (h : selftestFails cfg (computeCheck cfg (buildTable cfg)) = true) : construct cfg = .error .selftestMismatch := by
  simp only [construct, validate_eq_none_iff.2 hl]
  exact if_pos h

/-- Settles O35: validation checks the five conditions of a legal configuration in order, and the self-test comes last. -/
theorem configurationErrorsInOrder : Obligations.ConfigurationErrorsInOrder := by
  refine ⟨rfl, rfl, rfl, rfl, rfl, rfl, fun cfg => ⟨fun hzero => ?_, fun hw hover => ?_, fun hw hcap hpoly => ?_,
    fun hw hcap hpoly hinit => ?_, fun hw hcap hpoly hinit hxorout => ?_, fun hl hself hne => ?_, fun hl hself => ?_⟩⟩
  · exact construct_of_validate_eq_some (by simp [validate, hzero])
  · exact construct_of_validate_eq_some (by simp [validate, hw, hover])
  · exact construct_of_validate_eq_some (by simp [validate, Nat.one_le_iff_ne_zero.1 hw, hcap.not_gt, hpoly])
  · exact construct_of_validate_eq_some
      (by simp [validate, Nat.one_le_iff_ne_zero.1 hw, hcap.not_gt, hpoly.not_ge, hinit])
  · exact construct_of_validate_eq_some
      (by simp [validate, Nat.one_le_iff_ne_zero.1 hw, hcap.not_gt, hpoly.not_ge, hinit.not_ge, hxorout])
  · exact construct_of_selftestFails hl (by simp [selftestFails, hself, hne])
  · exact ⟨_, construct_eq_ok_iff.2 ⟨hl, selftestFails_eq_false_iff.2 hself, rfl⟩⟩

end Sys2Proof.Machine
end

section
/-! PROOFS. The empty stream after RESET, and resuming from a reported checksum (70_reset_and_hazards R273, R277). -/

namespace Sys2Proof.Machine

/-- The checksum of no bytes is reflected exactly when `REFOUT` (70_reset_and_hazards R273): finalization reflects `INIT` itself
without `REFIN`; with it, `CI` is reflected already, and finalization keeps that or undoes it. -/
theorem finalize_correctedInitial {cfg : Config} (hl : legalConfig cfg) :
    finalize cfg (correctedInitial cfg) =
      (if cfg.refout then reflectRegister cfg.width cfg.init else cfg.init) ^^^ cfg.xorout := by
  obtain ⟨-, -, -, hinit, -⟩ := hl
  cases hin : cfg.refin with
  | false => simp [finalize, correctedInitial, reflectsOutput, hin]
  | true =>
    have hback := reflectRegister_reflectRegister hinit
    cases hout : cfg.refout with
    | false => simp [finalize, correctedInitial, reflectsOutput, hin, hout, hback]
    | true => simp [finalize, correctedInitial, reflectsOutput, hin, hout]

/-- Settles O58: RESET, its repetition and the COMPUTE over no bytes are O10's, and the answer is the finalized `CI`. -/
theorem emptyStreamAfterReset : Obligations.EmptyStreamAfterReset := by
  intro s d hl hf hd
  obtain ⟨-, hreset⟩ := resetCommand
  obtain ⟨t, hst, rfl, hagain, hcompute⟩ := hreset s hf
  refine ⟨_, _, hst, hagain, hcompute d ((State.frame_of_memory rfl d).trans hd), ?_⟩
  rw [finalize_correctedInitial hl]

/-- A COMPUTE that answers a value has framed its stream, and the value is the finalization of the register it leaves. -/
theorem ExecEffect.compute_value {s t : State} {d : Framing} {v : Nat} (h : ExecEffect s (.compute d) t)
    (hv : t.responses = s.responses ++ [.value v]) :
    ∃ bytes, t.current = fold s.cfg s.table s.current bytes ∧ v = finalize s.cfg t.current := by
  cases h with
  | computeFault _ f _ => simp at hv
  | compute _ bytes _ => exact ⟨bytes, rfl, by simpa using hv.symm⟩

/-- Settles O59: `unfinalize` of the answer is the register the COMPUTE left (O53), which as a fold has `W` bits and so passes
the range check of SET. -/
theorem resumeFromReportedChecksum : Obligations.ResumeFromReportedChecksum := by
  intro s t u d v hs hcompute hv hcfg hf
  obtain ⟨-, heffect⟩ := exec_effect hcompute
  obtain ⟨bytes, hcurrent, rfl⟩ := heffect.compute_value hv
  have hlt : t.current < 2 ^ s.cfg.width := hcurrent ▸ fold_lt _ _ _ bytes hs.current_lt
  rw [unfinalize_finalize s.cfg hlt]
  exact (ExecEffect.set _ (le_allOnes_iff.2 (hcfg ▸ hlt))).exec_eq hf

end Sys2Proof.Machine
end

section
/-! PROOFS. The two steps that execute no command (43_engine R214, 60_exceptions R264), and the engine after reset. -/

namespace Sys2Proof.Machine

/-- With nothing pending the step is over at once, where it began. -/
theorem step_of_idle {s : State} (hin : s.inputs = []) : step s = s.stepTo s := by
  simp only [step, advance, hin]

/-- Settles O7: an engine without a fault completes its step, and the idle one goes nowhere. -/
theorem idleEngineHoldsState : Obligations.IdleEngineHoldsState :=
  fun s hf hin => (step_of_idle hin).trans (State.stepTo_of_unfaulted hf s)

/-- With a change of a container pending, the step takes it and writes the container. -/
theorem step_of_supply {s : State} {n : Nat} {bytes : List Byte} {rest : List HostAction} (hf : s.fault = none)
    (hin : s.inputs = .supply n bytes :: rest) : step s = .next ((s.withInputs rest).supply n bytes) := by
  simp only [step, advance, hin, hostStep]
  exact State.stepTo_of_unfaulted hf _

/-- Settles O9: the containers after the step are those of `Memory.write`, which keeps the canonical form, reads as the new
bytes at `n` and as before elsewhere. -/
theorem hostSupplyTouchesOnlyContainers : Obligations.HostSupplyTouchesOnlyContainers := by
  intro s n bytes rest hf hwf hin
  refine ⟨s.memory.write n bytes, step_of_supply hf hin, Memory.wf_write hwf n bytes, ?_, fun k hk => ?_⟩
  · exact (Memory.read_write hwf n bytes n).trans (if_pos rfl)
  · exact (Memory.read_write hwf n bytes k).trans (if_neg hk)

/-- `CI` of the configuration at reset: `INIT` is all ones, which reads the same in both directions. -/
theorem correctedInitial_atReset : correctedInitial Config.atReset = 0xFFFFFFFF :=
  reverseLow_two_pow_sub_one 32

/-- The check value of the configuration at reset is the one program P1 names (95_test_vectors L3). -/
theorem computeCheck_atReset : computeCheck Config.atReset (buildTable Config.atReset) = 0xCBF43926 := by
  decide +kernel

/-- The configuration at reset is legal and passes its self-test, so construction returns `State.reset`. -/
theorem construct_atReset : construct Config.atReset = .ok State.reset := by
  have hself : selftestFails Config.atReset (computeCheck Config.atReset (buildTable Config.atReset)) = false :=
    selftestFails_eq_false_iff.2 fun _ => computeCheck_atReset
  exact construct_eq_ok_iff.2 ⟨by decide, hself, rfl⟩

/-- Settles O34: construction returns `State.reset`, so it meets the invariant (O33); its `current` and check value are `CI` and
the computed check value of its configuration. -/
theorem resetMeetsEngineInv : Obligations.ResetMeetsEngineInv :=
  ⟨constructionGivesEngineInv _ _ construct_atReset, construct_atReset, correctedInitial_atReset, rfl,
    computeCheck_atReset, rfl, rfl⟩

end Sys2Proof.Machine
end
